-- ==== Sys2Proof/Word.lean ====
section
/-! DEFINITION. The words of the Triadex Muse CORE and the record of one thing per slider.

Bit 0 of every vector is its least significant bit (00_scope.md R12): element `p` of a spec vector is `getLsbD p`. -/

namespace Sys2Proof

/-- A command word `cmd[15:0]` (30_encoding.md R39). -/
abbrev CommandWord := BitVec 16

/-- A slider selector, 6 bits (10_state.md R20). -/
abbrev Selector := BitVec 6

/-- The content of the ShiftRegister and of the seed port, 31 bits (10_state.md R19, 30_encoding.md R43). -/
abbrev Stages := BitVec 31

/-- A binary64 value by its IEEE 754 encoding: bit 63 the sign, bits 62:52 the biased exponent, bits 51:0 the fraction
(20_memory.md R30). -/
abbrev Binary64 := BitVec 64

/-- The scale degree, 4 bits (00_scope.md, section 3). -/
abbrev Degree := BitVec 4

/-- A half-tone count, an entry of the halfTones table, 5 bits (44_note_mapper.md R66). -/
abbrev HalfTones := BitVec 5

end Sys2Proof
end

