-- ==== Sys2Proof/Config.lean ====
section
/-! DEFINITION. The parameters of the block (00_scope.md R7 to R10) as an argument type, and the free values, which have
no body. The parameter values the spec takes stand in Machine/Parameters.lean. -/

namespace Sys2Proof

/-- The two values of `SEMITONE_RATIO` (00_scope.md R9). -/
inductive SemitoneRatio
  /-- ρ = 2^(1/12). -/
  | exact
  /-- ρ = the source's literal 1.05946882217. -/
  | legacy
deriving DecidableEq, Repr

/-- The parameters that are properties of the block, not state (10_state.md R25). -/
structure Params where
  /-- `CLOCK_WIDTH`: `none` is unbounded, `some W` a Clock of `W` bits (00_scope.md R7). -/
  clockWidth : Option Nat
  /-- `MAX_SELECTOR`, the largest selector a slider may hold (00_scope.md R8). -/
  maxSelector : Nat
  /-- `SEMITONE_RATIO` (00_scope.md R9). -/
  semitoneRatio : SemitoneRatio
deriving DecidableEq, Repr

namespace Config

/-- FREE VALUE (log 6). The platform's binary64 evaluation of tonic times ρ to the half-tone count, the parameter
`FREQ_F64` (00_scope.md R10). The machine reads it only through `Machine.freqF64`, which keeps the properties of
44_note_mapper.md R69. -/
opaque freeFrequency : SemitoneRatio → Binary64 → HalfTones → Binary64

/-! FREE VALUES (log 5). "Every other element holds no value" after a failed INIT (45_engine_commands.md R76): what the
elements hold after the `n`-th failed INIT. -/

opaque lostClk : Nat → Nat
opaque lostBc : Nat → BitVec 5
opaque lostTc : Nat → BitVec 2
opaque lostSr : Nat → Stages
opaque lostSelA : Nat → Selector
opaque lostSelB : Nat → Selector
opaque lostSelC : Nat → Selector
opaque lostSelD : Nat → Selector
opaque lostSelW : Nat → Selector
opaque lostSelX : Nat → Selector
opaque lostSelY : Nat → Selector
opaque lostSelZ : Nat → Selector
opaque lostTonic : Nat → Binary64
opaque lostBpm : Nat → BitVec 32

end Config

end Sys2Proof
end

