-- ==== Sys2Proof/Syntax.lean ====
section
/-! DEFINITION. The commands of the block, one constructor per row of spec/opcode_table.json (30_encoding.md R38), and the
sliders they name (10_state.md R20). -/

namespace Sys2Proof

/-- The eight sliders (10_state.md R20): A to D are the interval sliders, W to Z the theme sliders. -/
inductive Slider
  | a | b | c | d | w | x | y | z
deriving DecidableEq, Repr

/-- One value for each slider: the registers `SEL[0..7]` (R20), the ports `sel_in[0..7]` (R44) and the snapshot
`SNAP[0..7]` (R24). -/
structure PerSlider (α : Type) where
  a : α
  b : α
  c : α
  d : α
  w : α
  x : α
  y : α
  z : α
deriving DecidableEq, Repr

/-- The commands (30_encoding.md R38). The data ports are inputs of the machine, not operands in the word: INIT and a
RESET with `r` set read them from the state (R43, R44). -/
inductive Instr
  /-- PULSE, format P (R40, R71). -/
  | pulse
  /-- SET_SLIDER(id, sel), format S (R41, R73). -/
  | setSlider (id : Slider) (sel : Selector)
  /-- RESET(r), format R (R42, R74); `r` selects reseeding. -/
  | reset (r : Bool)
  /-- INIT, the power-on; it has no command word (R39, R75). -/
  | init
deriving DecidableEq, Repr

end Sys2Proof
end

