-- ==== Sys2Proof/WellFormed.lean ====
section
/-! DEFINITION. Well-formedness of commands and of parameters. -/

namespace Sys2Proof

/-- The commands that are command words: INIT is not one (30_encoding.md R39). Every slider id and every 6-bit selector
is well-formed, a selector above MAX_SELECTOR too: that error comes from the value, not from the encoding (R41). -/
def Instr.wellFormed : Instr → Bool
  | .pulse => true
  | .setSlider _ _ => true
  | .reset _ => true
  | .init => false

/-- The parameter values the spec admits: a Clock that is unbounded or has at least one bit (00_scope.md R7), and 39 or 37
for `MAX_SELECTOR` (R8). -/
def Params.wellFormed (p : Params) : Bool :=
  (match p.clockWidth with
    | none => true
    | some w => decide (0 < w))
  && (p.maxSelector == 39 || p.maxSelector == 37)

end Sys2Proof
end

