-- ==== Sys2Proof/Decode.lean ====
section
/-! DEFINITION. The decoder of command words, total on all 65536 words (30_encoding.md R46 to R48), and the encoder,
written from the formats of R40 to R42. -/

namespace Sys2Proof

/-- The 3-bit id of a slider (10_state.md R20: 0 is A, 7 is Z). -/
def Slider.id : Slider → BitVec 3
  | .a => 0
  | .b => 1
  | .c => 2
  | .d => 3
  | .w => 4
  | .x => 5
  | .y => 6
  | .z => 7

/-- The slider of a 3-bit id; all eight ids are legal (30_encoding.md R41). -/
def Slider.ofId (i : BitVec 3) : Slider :=
  match i.toNat with
  | 0 => .a
  | 1 => .b
  | 2 => .c
  | 3 => .d
  | 4 => .w
  | 5 => .x
  | 6 => .y
  | _ => .z

/-- Why a word is illegal (30_encoding.md R47). -/
inductive IllegalWord
  /-- The opcode field is 0x0 or 0x4 to 0xF (R46). -/
  | reservedOpcode
  /-- A must-be-zero bit of the opcode's format is 1 (R46). -/
  | mustBeZero
deriving DecidableEq, Repr

/-- What a word decodes to (30_encoding.md R48): exactly one command, or IllegalCommand. -/
inductive Decoded
  | command (i : Instr)
  | illegal (why : IllegalWord)
deriving DecidableEq, Repr

/-- The opcode field `cmd[15:12]` (30_encoding.md R39). -/
def opcodeField (w : CommandWord) : BitVec 4 := w.extractLsb' 12 4

/-- Format P: `cmd[11:0]` must be zero (30_encoding.md R40). -/
def decodePulse (w : CommandWord) : Decoded :=
  if w.extractLsb' 0 12 = 0 then .command .pulse else .illegal .mustBeZero

/-- Format S: id `cmd[11:9]`, `cmd[8:6]` must be zero, sel `cmd[5:0]` (30_encoding.md R41). -/
def decodeSetSlider (w : CommandWord) : Decoded :=
  if w.extractLsb' 6 3 = 0 then
    .command (.setSlider (Slider.ofId (w.extractLsb' 9 3)) (w.extractLsb' 0 6))
  else .illegal .mustBeZero

/-- Format R: `cmd[11:1]` must be zero, r `cmd[0]` (30_encoding.md R42). -/
def decodeReset (w : CommandWord) : Decoded :=
  if w.extractLsb' 1 11 = 0 then .command (.reset (w.getLsbD 0)) else .illegal .mustBeZero

/-- The decoder: the opcode, then the must-be-zero bits, then the fields (30_encoding.md R46, R48). -/
def decode (w : CommandWord) : Decoded :=
  if opcodeField w = 1 then decodePulse w
  else if opcodeField w = 2 then decodeSetSlider w
  else if opcodeField w = 3 then decodeReset w
  else .illegal .reservedOpcode

/-- The word of a command (30_encoding.md R40, R41, R42); INIT has none (R39). -/
def encode : Instr → Option CommandWord
  | .pulse => some 0x1000
  | .setSlider id sel => some (0x2000 ||| (id.id.setWidth 16 <<< 9) ||| sel.setWidth 16)
  | .reset r => some (0x3000 ||| (BitVec.ofBool r).setWidth 16)
  | .init => none

/-- A table row's bits as the 16-bit command word; bits at and above `nbits` are 0. -/
def tableWord (nbits w : Nat) : CommandWord := BitVec.ofNat 16 (w % 2 ^ nbits)

/-- The command of an opcode-table word. The table's INIT row has no encoding: a row of NO bits is the power-on, every
other is a command word (30_encoding.md R39; log 12). -/
def decodeTableWord (nbits w : Nat) : Option Instr :=
  if nbits = 0 then some .init
  else
    match decode (tableWord nbits w) with
    | .command i => some i
    | .illegal _ => none

end Sys2Proof
end

