-- ==== Sys2Proof/Machine/State.lean ====
section
/-! DEFINITION. The state of the machine as plain data, the reasons a step can stop, and the state after reset. -/

namespace Sys2Proof.Machine

/-- The error an erring command records in `FAULT`, code and info (60_exceptions.md R84). -/
inductive ErrorInfo
  /-- CFG_SELECTOR, code 0x1: the slider id and the selector value. -/
  | cfgSelector (id : Slider) (value : Selector)
  /-- CFG_BPM, code 0x2: the bpm value. -/
  | cfgBpm (bpm : BitVec 32)
  /-- CFG_TONIC, code 0x3: the tonic encoding. -/
  | cfgTonic (tonic : Binary64)
  /-- ILLEGAL_COMMAND, code 0x4: the command word. -/
  | illegalCommand (word : CommandWord)
deriving DecidableEq, Repr

/-- What the host drives on the data ports: the seed port (30_encoding.md R43) and the configuration ports (R44). -/
structure Ports where
  /-- `seed_in[30:0]` -/
  seedIn : Stages
  /-- `tonic_in[63:0]` -/
  tonicIn : Binary64
  /-- `bpm_in[31:0]` -/
  bpmIn : BitVec 32
  /-- `sel_in[0..7][5:0]` -/
  selIn : PerSlider Selector
deriving DecidableEq, Repr

/-- What the host issues: a 16-bit command word, or the power-on INIT, which is no word (30_encoding.md R39). -/
inductive HostCommand
  | word (w : CommandWord)
  | powerOn
deriving DecidableEq, Repr

/-- One command of the host with what it drives on the ports while the command runs (45_engine_commands.md R81). -/
structure Request where
  command : HostCommand
  ports : Ports
deriving DecidableEq, Repr

/-- The response of a command (30_encoding.md R45). -/
structure Response where
  /-- `status[3:0]` -/
  status : BitVec 4
  /-- `degree[3:0]` -/
  degree : Degree
  /-- `freq[63:0]` -/
  freq : Binary64
deriving DecidableEq, Repr

/-- The state: the block's elements (10_state.md R16 to R23, all of them by R26), whether the engine has started (R76), and
the block's boundary with the host. INVENTORY.md lists each with its rule and reset value. -/
structure State where
  /-- `CLK`, the Clock (R16). -/
  clk : Nat
  /-- `BC[0..4]`, the BinaryCounter (R17). -/
  bc : BitVec 5
  /-- `TC[0..1]`, the TripleCounter (R18). -/
  tc : BitVec 2
  /-- `SR[0..30]`, the ShiftRegister; bit 0 is the front (R19). -/
  sr : Stages
  /-- `SEL[0..7]`, the slider selector registers (R20). -/
  sel : PerSlider Selector
  /-- `TONIC`, the tonic frequency (R21). -/
  tonic : Binary64
  /-- `BPM`, the tempo, a two's-complement integer (R22). -/
  bpm : BitVec 32
  /-- `FAULT`, the sticky error state (R23). -/
  fault : Option ErrorInfo
  /-- False after a failed INIT: the engine is not started and the elements above other than `FAULT` hold no value (R76). -/
  started : Bool
  /-- The data ports, as the host drives them for the command that runs (R43, R44). -/
  ports : Ports
  /-- The responses returned to the host, newest first (R45, R80). -/
  responses : List Response
  /-- The model's own field (log 1): the commands the host has still to issue, in its order (R34, R83). -/
  pending : List Request
  /-- The model's own field (log 5): how many INITs have failed, which the free values of R76 are drawn with. -/
  initFailures : Nat
deriving DecidableEq, Repr

/-- Why the machine stops. Spec errors are not here: they are next states with `FAULT` set (60_exceptions.md R86). -/
inductive Fault
  /-- Raised by PULSE where a slider's stored selector is above 39 and so names no element of the 40-element source
  sequence: the source's "index-out-of-bounds failure", which 42_slider_source.md R60 says cannot happen, since stored
  selectors are always legal. Safe: no state with a legal configuration raises it (log 10). -/
  | selectorOutOfRange
deriving DecidableEq, Repr

/-- Why the model has no meaning for a command. -/
inductive Refusal
  /-- Raised by an arm of `exec` for a command without a meaning yet; no arm raises it now. Safe. -/
  | notModelled (mnemonic : String)
deriving DecidableEq, Repr

/-- What the INIT of R75's example drives: tonic=440.0, bpm=120, sel=[0,0,0,0,0,0,0,0], seed=0x2AAAAAAA
(45_engine_commands.md R75). DESIGN CHOICE, unsafe (log 3): the configuration and the seed are inputs of INIT. -/
def Ports.example75 : Ports :=
  { seedIn := 0x2AAAAAAA
    tonicIn := 0x407B800000000000
    bpmIn := 120
    selIn := ⟨0, 0, 0, 0, 0, 0, 0, 0⟩ }

/-- The machine right after reset: the result of the power-on INIT (70_reset_and_hazards.md R96, 10_state.md R28) of R75's
example. `CLK`, `BC`, `TC` and `FAULT` are the spec's values; the configured ones are a DESIGN CHOICE (log 3). -/
def State.reset : State :=
  { clk := 0
    bc := 0
    tc := 0
    sr := Ports.example75.seedIn
    sel := Ports.example75.selIn
    tonic := Ports.example75.tonicIn
    bpm := Ports.example75.bpmIn
    fault := none
    started := true
    ports := Ports.example75
    responses := [⟨0, 0, 0⟩]
    pending := []
    initFailures := 0 }

end Sys2Proof.Machine
end

