-- ==== Sys2Proof/Machine/Binary64.lean ====
section
/-! DEFINITION. Binary64 by its encoding (00_scope.md R15, 20_memory.md R30), for the positive finite values the block
computes with. A finite magnitude is a natural number of UNITS of 2^-1074, so every comparison is exact. -/

namespace Sys2Proof.Machine.F64

/-- Bit 63, the sign. -/
def sign (t : Binary64) : Bool := t.getLsbD 63

/-- Bits 62:52, the biased exponent. -/
def exponent (t : Binary64) : Nat := (t.extractLsb' 52 11).toNat

/-- Bits 51:0, the fraction. -/
def fraction (t : Binary64) : Nat := (t.extractLsb' 0 52).toNat

/-- Neither an infinity nor a NaN. -/
def isFinite (t : Binary64) : Bool := exponent t != 2047

/-- The magnitude of a finite value in units of 2^-1074: subnormal when the exponent field is 0. -/
def units (t : Binary64) : Nat :=
  if exponent t = 0 then fraction t else (2 ^ 52 + fraction t) * 2 ^ (exponent t - 1)

/-- Greater than zero, for a finite value. -/
def isPositive (t : Binary64) : Bool := !sign t && units t != 0

/-- The legal tonics: finite and greater than zero (10_state.md R21, 45_engine_commands.md R75). -/
def legalTonic (t : Binary64) : Bool := isFinite t && isPositive t

/-- Positive infinity. -/
def infinity : Binary64 := 0x7FF0000000000000

/-- The largest finite value, DBL_MAX. -/
def maxFinite : Binary64 := 0x7FEFFFFFFFFFFFFF

/-- The number 1 in units. -/
def oneUnits : Nat := 2 ^ 1074

/-- The smallest normal value in units: 2^-1022. -/
def minNormalUnits : Nat := 2 ^ 52

/-- DBL_MAX in units. -/
def maxFiniteUnits : Nat := (2 ^ 53 - 1) * 2 ^ 2045

/-- `n / d` rounded to the nearest natural number, ties to even. -/
def roundHalfEven (n d : Nat) : Nat :=
  let q := n / d
  let r := n % d
  if 2 * r < d then q else if d < 2 * r then q + 1 else q + q % 2

/-- `n / d` units rounded to binary64, to nearest, ties to even (00_scope.md R15); past DBL_MAX it is +infinity
(44_note_mapper.md R68). The encoding of a magnitude is its significand plus 2^52 times its binade. -/
def round (n d : Nat) : Binary64 :=
  let binade := Nat.log2 (n / d) - 52
  let code := binade * 2 ^ 52 + roundHalfEven n (d * 2 ^ binade)
  if code < 2047 * 2 ^ 52 then BitVec.ofNat 64 code else infinity

/-- `f64_mul(a, b)` on non-negative finite values (00_scope.md R15). -/
def mul (a b : Binary64) : Binary64 := round (units a * units b) oneUnits

/-- `f64_pow(x, n)` on non-negative finite values, correctly rounded (00_scope.md R15 leaves the rounding to the platform;
log 11). -/
def pow (x : Binary64) (n : Nat) : Binary64 := round (units x ^ n * oneUnits) (oneUnits ^ n)

end Sys2Proof.Machine.F64
end

