-- ==== Sys2Proof/Machine/Bits.lean ====
section
/-! DEFINITION. Bit helpers of the counters and of the note index. -/

namespace Sys2Proof.Machine

/-- The vector whose bit `p` is `f p`. -/
def bitsOf (f : Nat → Bool) : (n : Nat) → BitVec n
  | 0 => 0#0
  | n + 1 => BitVec.cons (f n) (bitsOf f n)

/-- Toggle exactly the bits `p` with `f p` (00_scope.md R13, `not b` on a bit). -/
def toggleWhere {n : Nat} (f : Nat → Bool) (v : BitVec n) : BitVec n := v ^^^ bitsOf f n

end Sys2Proof.Machine
end

