-- ==== Sys2Proof/Machine/Flags.lean ====
section
/-! DEFINITION. The status codes. The block has no flags and no condition codes (10_state.md R26); what a command reports is
the response's `status[3:0]` (60_exceptions.md R84). -/

namespace Sys2Proof.Machine

/-- OK, 0x0 (60_exceptions.md R84). -/
def statusOk : BitVec 4 := 0x0

/-- FAULTED, 0x5 (60_exceptions.md R84, R87). -/
def statusFaulted : BitVec 4 := 0x5

/-- The code of an error (60_exceptions.md R84). -/
def ErrorInfo.code : ErrorInfo → BitVec 4
  | .cfgSelector _ _ => 0x1
  | .cfgBpm _ => 0x2
  | .cfgTonic _ => 0x3
  | .illegalCommand _ => 0x4

end Sys2Proof.Machine
end

