-- ==== Sys2Proof/Machine/Operands.lean ====
section
/-! DEFINITION. The operands: the slider registers by slider, the slider sources, the pulse snapshot and the selector
check. -/

namespace Sys2Proof

/-- The value of one slider. -/
def PerSlider.get {α : Type} (v : PerSlider α) : Slider → α
  | .a => v.a
  | .b => v.b
  | .c => v.c
  | .d => v.d
  | .w => v.w
  | .x => v.x
  | .y => v.y
  | .z => v.z

/-- Replace the value of one slider. -/
def PerSlider.set {α : Type} (v : PerSlider α) (i : Slider) (t : α) : PerSlider α :=
  match i with
  | .a => { v with a := t }
  | .b => { v with b := t }
  | .c => { v with c := t }
  | .d => { v with d := t }
  | .w => { v with w := t }
  | .x => { v with x := t }
  | .y => { v with y := t }
  | .z => { v with z := t }

/-- The sliders in id order, the snapshot's order (10_state.md R20). -/
def Slider.all : List Slider := [.a, .b, .c, .d, .w, .x, .y, .z]

namespace Machine

/-- SLIDER_OUTPUT(s) (42_slider_source.md R60). `none` for a value above 39, which no source element has. -/
def sliderOutput (s : State) (v : Selector) : Option Bool :=
  let n := v.toNat
  if n = 0 then some false
  else if n = 1 then some true
  else if n ≤ 6 then some (s.bc.getLsbD (n - 2))
  else if n ≤ 8 then some (s.tc.getLsbD (n - 7))
  else if n ≤ 39 then some (s.sr.getLsbD (n - 9))
  else none

/-- The slider source sequence `[0, 1] ++ BinaryCounter.bits ++ TripleCounter.bits ++ ShiftRegister.bits` as the source
builds it (42_slider_source.md R60); `sliderOutput` is the spec's pseudocode for indexing it. -/
def sourceSequence (s : State) : List Bool :=
  [false, true] ++ (List.range 5).map s.bc.getLsbD ++ (List.range 2).map s.tc.getLsbD
    ++ (List.range 31).map s.sr.getLsbD

/-- The pulse snapshot `SNAP[0..7]` (10_state.md R24): the eight slider outputs on the state as it is. -/
def snapshot (s : State) : Option (PerSlider Bool) := do
  let a ← sliderOutput s s.sel.a
  let b ← sliderOutput s s.sel.b
  let c ← sliderOutput s s.sel.c
  let d ← sliderOutput s s.sel.d
  let w ← sliderOutput s s.sel.w
  let x ← sliderOutput s s.sel.x
  let y ← sliderOutput s s.sel.y
  let z ← sliderOutput s s.sel.z
  return ⟨a, b, c, d, w, x, y, z⟩

/-- SELECTOR_CHECK(v) for slider `i` (42_slider_source.md R61): the error it raises, if it raises one. -/
def selectorCheck (p : Params) (i : Slider) (v : Selector) : Option ErrorInfo :=
  if p.maxSelector < v.toNat then some (.cfgSelector i v) else none

end Machine

end Sys2Proof
end

