-- ==== Sys2Proof/Machine/Parameters.lean ====
section
/-! DEFINITION. The parameter values the spec takes. -/

namespace Sys2Proof.Machine

/-- The spec's defaults: `CLOCK_WIDTH` unbounded (00_scope.md R7), `MAX_SELECTOR` 39 (R8), `SEMITONE_RATIO` EXACT (R9); see
log 9. -/
def specParams : Params :=
  { clockWidth := none
    maxSelector := 39
    semitoneRatio := .exact }

end Sys2Proof.Machine
end

