-- ==== Sys2Proof/Machine/Ops.lean ====
section
/-! DEFINITION. The operations the commands share: responding, refusing while faulted, raising an error, and what a failed
INIT leaves. There is no memory (20_memory.md R29), no trap entry and no trap return (60_exceptions.md R90, R91): raising an
error is the whole of the block's exception mechanism, and only INIT leaves the faulted state (R87). -/

namespace Sys2Proof.Machine

/-- `respond(fields)`: return a response to the host (00_scope.md R14, 30_encoding.md R45). -/
def respond (r : Response) (s : State) : State := { s with responses := r :: s.responses }

/-- Respond with a status and, outside an OK PULSE, `degree` and `freq` at zero (30_encoding.md R45). -/
def respondStatus (status : BitVec 4) (s : State) : State := respond ⟨status, 0, 0⟩ s

/-- Refusal while faulted: no state changes, the response is FAULTED (60_exceptions.md R87). -/
def refuse (s : State) : State := respondStatus statusFaulted s

/-- `raise Error(info)`: `FAULT <- some(e, i)`, nothing else changes, respond with the error's code (60_exceptions.md
R86). -/
def raiseError (e : ErrorInfo) (s : State) : State := respondStatus e.code { s with fault := some e }

/-- `if FAULT != none then refuse`, the first line of PULSE, SET_SLIDER and RESET (60_exceptions.md R87, R88). -/
def unlessFaulted (s : State) (run : Host.Outcome State Fault Refusal) : Host.Outcome State Fault Refusal :=
  match s.fault with
  | some _ => .next (refuse s)
  | none => run

/-- After a failed INIT every element but `FAULT` holds no value (45_engine_commands.md R76): free values (log 5). -/
def loseElements (s : State) : State :=
  let n := s.initFailures
  { s with
    clk := Config.lostClk n
    bc := Config.lostBc n
    tc := Config.lostTc n
    sr := Config.lostSr n
    sel := ⟨Config.lostSelA n, Config.lostSelB n, Config.lostSelC n, Config.lostSelD n,
      Config.lostSelW n, Config.lostSelX n, Config.lostSelY n, Config.lostSelZ n⟩
    tonic := Config.lostTonic n
    bpm := Config.lostBpm n
    started := false
    initFailures := n + 1 }

end Sys2Proof.Machine
end

