-- ==== Sys2Proof/Machine/Counters.lean ====
section
/-! DEFINITION. The Clock, the BinaryCounter and the TripleCounter (40_counters.md). -/

namespace Sys2Proof.Machine

/-- The Clock value after CLOCK_PULSE: `CLK + 1`, taken mod 2^W for a Clock of finite width W (40_counters.md R50). -/
def clockNext (width : Option Nat) (clk : Nat) : Nat :=
  match width with
  | none => clk + 1
  | some w => (clk + 1) % 2 ^ w

/-- BC_ADVANCE(c) on the counter: all ones goes to zero (rule 1), else bit `p` toggles where `c mod 2^p = 0` (rule 2)
(40_counters.md R52). -/
def bcNext (c : Nat) (bc : BitVec 5) : BitVec 5 :=
  if bc = 0b11111 then 0b00000 else toggleWhere (fun p => decide (c % 2 ^ p = 0)) bc

/-- TC_ADVANCE(c) on the counter: bit `p` toggles where `c mod (3 * (p + 1)) = 0` (40_counters.md R54). -/
def tcNext (c : Nat) (tc : BitVec 2) : BitVec 2 :=
  toggleWhere (fun p => decide (c % (3 * (p + 1)) = 0)) tc

/-- CLOCK_PULSE (40_counters.md R50). -/
def clockPulse (p : Params) (s : State) : State := { s with clk := clockNext p.clockWidth s.clk }

/-- CLOCK_RESET (40_counters.md R51). -/
def clockReset (s : State) : State := { s with clk := 0 }

/-- BC_ADVANCE(CLK) (40_counters.md R52). -/
def bcAdvance (s : State) : State := { s with bc := bcNext s.clk s.bc }

/-- TC_ADVANCE(CLK) (40_counters.md R54). -/
def tcAdvance (s : State) : State := { s with tc := tcNext s.clk s.tc }

end Sys2Proof.Machine
end

