-- ==== Sys2Proof/Machine/ShiftRegister.lean ====
section
/-! DEFINITION. The ShiftRegister (41_shift_register.md) and the ParityUnit that feeds it (43_parity.md). -/

namespace Sys2Proof.Machine

/-- SR_ADVANCE(b) on the register: `{SR[29:0], b}`, the new bit at position 0 and the bit at 30 discarded
(41_shift_register.md R57). -/
def srPush (b : Bool) (sr : Stages) : Stages := (sr.extractLsb' 0 30).concat b

/-- SR_ADVANCE(b) (41_shift_register.md R57). -/
def srAdvance (b : Bool) (s : State) : State := { s with sr := srPush b s.sr }

/-- SR_LOAD(s) (41_shift_register.md R58). -/
def srLoad (seed : Stages) (s : State) : State := { s with sr := seed }

/-- PARITY(w, x, y, z) = (w + x + y + z) mod 2 (43_parity.md R64). -/
def parity (w x y z : Bool) : Bool :=
  decide ((w.toNat + x.toNat + y.toNat + z.toNat) % 2 = 1)

end Sys2Proof.Machine
end

