-- ==== Sys2Proof/Machine/Configure.lean ====
section
/-! DEFINITION. The meanings of SET_SLIDER, RESET and INIT (45_engine_commands.md R73 to R76). -/

namespace Sys2Proof.Machine

/-- SET_SLIDER(id, sel) (45_engine_commands.md R73) under parameters `p`. -/
def setSliderWith (p : Params) (id : Slider) (sel : Selector) (s : State) : Host.Outcome State Fault Refusal :=
  unlessFaulted s <|
    match selectorCheck p id sel with
    | some e => .next (raiseError e s)
    | none => .next (respondStatus statusOk { s with sel := s.sel.set id sel })

/-- SET_SLIDER(id, sel) (45_engine_commands.md R73). -/
def execSetSlider (id : Slider) (sel : Selector) (s : State) : Host.Outcome State Fault Refusal :=
  setSliderWith specParams id sel s

/-- RESET(r, seed) (45_engine_commands.md R74); the seed is read from `seed_in` when `r` is 1 (30_encoding.md R43). -/
def execReset (r : Bool) (s : State) : Host.Outcome State Fault Refusal :=
  unlessFaulted s <|
    let cleared := clockReset s
    .next (respondStatus statusOk (if r then srLoad s.ports.seedIn cleared else cleared))

/-- The first error of an INIT configuration: the selectors in id order, then the tempo, then the tonic
(45_engine_commands.md R75, 60_exceptions.md R88). -/
def configError (p : Params) (cfg : Ports) : Option ErrorInfo :=
  match Slider.all.findSome? (fun i => selectorCheck p i (cfg.selIn.get i)) with
  | some e => some e
  | none =>
    if cfg.bpmIn.toInt ≤ 0 then some (.cfgBpm cfg.bpmIn)
    else if F64.legalTonic cfg.tonicIn then none
    else some (.cfgTonic cfg.tonicIn)

/-- The writes of a successful INIT (45_engine_commands.md R75). -/
def loadConfig (cfg : Ports) (s : State) : State :=
  { srLoad cfg.seedIn s with
    clk := 0
    bc := 0b00000
    tc := 0b00
    sel := cfg.selIn
    tonic := cfg.tonicIn
    bpm := cfg.bpmIn
    fault := none
    started := true }

/-- INIT(cfg, seed) (45_engine_commands.md R75, R76) under parameters `p`; its operands are on the ports. -/
def initWith (p : Params) (s : State) : Host.Outcome State Fault Refusal :=
  match configError p s.ports with
  | some e => .next (raiseError e (loseElements s))
  | none => .next (respondStatus statusOk (loadConfig s.ports s))

/-- INIT(cfg, seed) (45_engine_commands.md R75, R76). -/
def execInit (s : State) : Host.Outcome State Fault Refusal := initWith specParams s

end Sys2Proof.Machine
end

