-- ==== Sys2Proof/Machine/NoteMapper.lean ====
section
/-! DEFINITION. The NoteMapper: the note index, the halfTones table and the frequency (44_note_mapper.md). -/

namespace Sys2Proof.Machine

/-- ENCODE(a, b, c, d) = a + 2b + 4c + 8d (44_note_mapper.md R65). -/
def encodeIndex (a b c d : Bool) : Degree :=
  BitVec.ofNat 4 (a.toNat + 2 * b.toNat + 4 * c.toNat + 8 * d.toNat)

/-- The halfTones table (44_note_mapper.md R66). -/
def halfTonesTable : List HalfTones := [0, 2, 4, 5, 7, 9, 11, 12, 14, 16, 17, 19, 21, 23, 24, 24]

/-- HALFTONE(index) (44_note_mapper.md R67): the table has an entry for every 4-bit index. -/
def halfTone (index : Degree) : HalfTones := halfTonesTable[index.toNat]'index.isLt

/-- ρ rounded to binary64 (44_note_mapper.md R68). -/
def rhoF64 : SemitoneRatio → Binary64
  | .exact => 0x3FF0F38F92D97963
  | .legacy => 0x3FF0F3959465A0EE

/-- The reference evaluation `f64_mul(t, f64_pow(ρ_64, h))` (44_note_mapper.md R68). -/
def referenceFrequency (ratio : SemitoneRatio) (t : Binary64) (h : HalfTones) : Binary64 :=
  F64.mul t (F64.pow (rhoF64 ratio) h.toNat)

/-! The exact value of ρ^h (00_scope.md R9): its `rhoDegree`-th power is the fraction `rhoNum / rhoDen`. -/

def rhoDegree : SemitoneRatio → Nat
  | .exact => 12
  | .legacy => 1

def rhoNum (ratio : SemitoneRatio) (h : HalfTones) : Nat :=
  match ratio with
  | .exact => 2 ^ h.toNat
  | .legacy => 105946882217 ^ h.toNat

def rhoDen (ratio : SemitoneRatio) (h : HalfTones) : Nat :=
  match ratio with
  | .exact => 1
  | .legacy => (10 ^ 11) ^ h.toNat

/-- `a * ρ^h ≤ b`, exactly. -/
def timesRhoLe (ratio : SemitoneRatio) (h : HalfTones) (a b : Nat) : Bool :=
  decide (a ^ rhoDegree ratio * rhoNum ratio h ≤ b ^ rhoDegree ratio * rhoDen ratio h)

/-- `b ≤ a * ρ^h`, exactly. -/
def leTimesRho (ratio : SemitoneRatio) (h : HalfTones) (b a : Nat) : Bool :=
  decide (b ^ rhoDegree ratio * rhoDen ratio h ≤ a ^ rhoDegree ratio * rhoNum ratio h)

/-- The mathematical value `t * ρ^h` exceeds DBL_MAX (44_note_mapper.md R68). -/
def overflows (ratio : SemitoneRatio) (t : Binary64) (h : HalfTones) : Bool :=
  !timesRhoLe ratio h (F64.units t) F64.maxFiniteUnits

/-- The mathematical value `t * ρ^h` is at least the smallest normal value (44_note_mapper.md R69 (c)). -/
def reachesNormal (ratio : SemitoneRatio) (t : Binary64) (h : HalfTones) : Bool :=
  leTimesRho ratio h F64.minNormalUnits (F64.units t)

/-- `r` is a positive finite value within a relative error of 2^-45 of `t * ρ^h` (44_note_mapper.md R69 (c)). -/
def withinTolerance (ratio : SemitoneRatio) (t : Binary64) (h : HalfTones) (r : Binary64) : Bool :=
  F64.legalTonic r
    && leTimesRho ratio h (2 ^ 45 * F64.units r) ((2 ^ 45 + 1) * F64.units t)
    && timesRhoLe ratio h ((2 ^ 45 - 1) * F64.units t) (2 ^ 45 * F64.units r)

/-- The reference evaluation, DBL_MAX where its own rounding overflows. -/
def conformingFrequency (ratio : SemitoneRatio) (t : Binary64) (h : HalfTones) : Binary64 :=
  if F64.isFinite (referenceFrequency ratio t h) then referenceFrequency ratio t h else F64.maxFinite

/-- The parameter `FREQ_F64` (00_scope.md R10): on the legal tonics it has the properties of 44_note_mapper.md R69 and the
overflow of R68, and is free otherwise (log 6, 7, 8). Where R69 (c) bounds the result, the free value stands if it is within
the bound, and else the reference evaluation: so every conforming function is one value of the parameter. -/
def freqF64 (ratio : SemitoneRatio) (t : Binary64) (h : HalfTones) : Binary64 :=
  let free := Config.freeFrequency ratio t h
  if F64.legalTonic t then
    if h = 0 then t
    else if overflows ratio t h then F64.infinity
    else if reachesNormal ratio t h then
      if withinTolerance ratio t h free then free else conformingFrequency ratio t h
    else free
  else free

/-- TO_FREQUENCY(t, index) (44_note_mapper.md R68). -/
def toFrequency (ratio : SemitoneRatio) (t : Binary64) (index : Degree) : Binary64 :=
  freqF64 ratio t (halfTone index)

end Sys2Proof.Machine
end

