-- ==== Sys2Proof/Machine/Pulse.lean ====
section
/-! DEFINITION. The meaning of PULSE (45_engine_commands.md R71). -/

namespace Sys2Proof.Machine

/-- Steps 2 to 9 of PULSE, in the source's order, with the snapshot of step 1 (45_engine_commands.md R71). -/
def pulseSteps (p : Params) (snap : PerSlider Bool) (s : State) : State :=
  let s := clockPulse p s
  let s := bcAdvance s
  let s := tcAdvance s
  let par := parity snap.w snap.x snap.y snap.z
  let s := srAdvance par s
  let index := encodeIndex snap.a snap.b snap.c snap.d
  let freq := toFrequency p.semitoneRatio s.tonic index
  respond ⟨statusOk, index, freq⟩ s

/-- PULSE (45_engine_commands.md R71) under parameters `p`. -/
def pulseWith (p : Params) (s : State) : Host.Outcome State Fault Refusal :=
  unlessFaulted s <|
    match snapshot s with
    | some snap => .next (pulseSteps p snap s)
    | none => .fault .selectorOutOfRange

/-- PULSE (45_engine_commands.md R71). -/
def execPulse (s : State) : Host.Outcome State Fault Refusal := pulseWith specParams s

end Sys2Proof.Machine
end

