-- ==== Sys2Proof/Machine/Dispatch.lean ====
section
/-! DEFINITION. One arm per command. -/

namespace Sys2Proof.Machine

def exec (i : Instr) (s : State) : Host.Outcome State Fault Refusal :=
  match i with
  | .pulse => Sys2Proof.Machine.execPulse s
  | .setSlider id sel => Sys2Proof.Machine.execSetSlider id sel s
  | .reset r => Sys2Proof.Machine.execReset r s
  | .init => Sys2Proof.Machine.execInit s

end Sys2Proof.Machine
end

