-- ==== Sys2Proof/Machine/Issue.lean ====
section
/-! DEFINITION. How the block takes one command from the host (45_engine_commands.md, introduction; 60_exceptions.md R88),
and how the model places one there. -/

namespace Sys2Proof.Machine

/-- How a command runs: `exec`, or `execWith` for other parameters. -/
abbrev Meaning := Instr → State → Host.Outcome State Fault Refusal

/-- A command word: refused while faulted, before it is decoded; then decoded; an illegal word raises IllegalCommand
(60_exceptions.md R87, R88; 30_encoding.md R47). -/
def issueWord (meaning : Meaning) (w : CommandWord) (s : State) : Host.Outcome State Fault Refusal :=
  unlessFaulted s <|
    match decode w with
    | .command i => meaning i s
    | .illegal _ => .next (raiseError (.illegalCommand w) s)

/-- One command of the host: a word, or the power-on INIT, which no fault holds back (60_exceptions.md R87). -/
def issue (meaning : Meaning) (c : HostCommand) (s : State) : Host.Outcome State Fault Refusal :=
  match c with
  | .word w => issueWord meaning w s
  | .powerOn => meaning .init s

/-- Take a request: its ports are driven, and the requests after it stay pending. -/
def accept (r : Request) (rest : List Request) (s : State) : State :=
  { s with ports := r.ports, pending := rest }

/-- One step of the block: the host's next command, or, with none, nothing: the block holds its state
(45_engine_commands.md R82, 60_exceptions.md R94; log 1). -/
def stepHost (meaning : Meaning) (s : State) : Host.Outcome State Fault Refusal :=
  match s.pending with
  | [] => .next s
  | r :: rest => issue meaning r.command (accept r rest s)

/-- The commands under parameters `p` (00_scope.md R7 to R9); `exec` is this with the spec's own. -/
def execWith (p : Params) : Meaning
  | .pulse, s => pulseWith p s
  | .setSlider id sel, s => setSliderWith p id sel s
  | .reset r, s => execReset r s
  | .init, s => initWith p s

/-- One step of the block under parameters `p`. -/
def stepWith (p : Params) (s : State) : Host.Outcome State Fault Refusal := stepHost (execWith p) s

/-- The host command of an opcode-table word: the row without bits is the power-on (log 12). -/
def tableCommand (nbits w : Nat) : HostCommand :=
  if nbits = 0 then .powerOn else .word (tableWord nbits w)

/-- Put a table word first among the host's commands, with the ports as they are (log 1). -/
def placeTableWord (s : State) (nbits w : Nat) : State :=
  { s with pending := ⟨tableCommand nbits w, s.ports⟩ :: s.pending }

end Sys2Proof.Machine
end

