-- ==== Sys2Proof/Machine/Step.lean ====
section
/-! DEFINITION. The step, and how a word comes to be the next command. -/

namespace Sys2Proof.Machine

/-- One step: one command of the host, atomic (20_memory.md R32, R34). -/
def step (s : State) : Host.Outcome State Fault Refusal := stepHost exec s

/-- The same state with a table word as the host's next command. -/
def State.withFetchWord (s : State) (nbits w : Nat) : State := placeTableWord s nbits w

end Sys2Proof.Machine
end

