-- ==== Sys2Proof/Machine/Assembler.lean ====
section
/-! DEFINITION. The assembler syntax of 30_encoding.md R49, one constructor per line form: what a line asks the host to issue.
The characters of a line have no behaviour (92_eei_decisions.md D21; log 17). -/

namespace Sys2Proof.Machine

/-- A line of R49's table with its operands. -/
inductive AsmLine
  /-- `PULSE` -/
  | pulse
  /-- `SETSL <s>, <n>` -/
  | setsl (s : Slider) (n : Selector)
  /-- `RESET` -/
  | reset
  /-- `RESET.SEED <h>`, with `h` placed on `seed_in` -/
  | resetSeed (h : Stages)
  /-- `INIT tonic=<f>, bpm=<n>, sel=[a,b,c,d,w,x,y,z], seed=<h>`: the power-on with its operands on the ports -/
  | init (cfg : Ports)
deriving DecidableEq, Repr

/-- The host's request for a line; a port the line does not name keeps the value `idle` gives it. -/
def assemble (idle : Ports) : AsmLine → Request
  | .pulse => ⟨.word 0x1000, idle⟩
  | .setsl s n => ⟨.word (BitVec.ofNat 16 (0x2000 + s.id.toNat * 2 ^ 9 + n.toNat)), idle⟩
  | .reset => ⟨.word 0x3000, idle⟩
  | .resetSeed h => ⟨.word 0x3001, { idle with seedIn := h }⟩
  | .init cfg => ⟨.powerOn, cfg⟩

end Sys2Proof.Machine
end

