-- ==== Sys2Proof/Machine/Debug.lean ====
section
/-! DEFINITION. The debug view (60_exceptions.md R95): a reading of every state element, which is a function of the state and
so has no side effect. -/

namespace Sys2Proof.Machine

/-- The elements other than `FAULT` (60_exceptions.md R95). -/
structure Elements where
  clk : Nat
  bc : BitVec 5
  tc : BitVec 2
  sr : Stages
  sel : PerSlider Selector
  tonic : Binary64
  bpm : BitVec 32
deriving DecidableEq, Repr

/-- What the host reads between commands. `elements` is `none` when the engine is not started: the elements then hold no
value and must not be read (45_engine_commands.md R76). -/
structure DebugView where
  fault : Option ErrorInfo
  elements : Option Elements
deriving DecidableEq, Repr

/-- The debug view of a state (60_exceptions.md R95). -/
def State.debugView (s : State) : DebugView :=
  { fault := s.fault
    elements :=
      if s.started then some ⟨s.clk, s.bc, s.tc, s.sr, s.sel, s.tonic, s.bpm⟩ else none }

end Sys2Proof.Machine
end

