-- ==== Sys2Proof/Machine/Run.lean ====
section
/-! DEFINITION. Runs: a number of steps, stopping at the first that stops (45_engine_commands.md R80). -/

namespace Sys2Proof.Machine

/-- `n` steps from a state. It passes over a power-on among the pending requests, where R80 speaks of one INIT with the
commands after it (log 18). -/
def run : Nat → State → Host.Outcome State Fault Refusal
  | 0, s => .next s
  | n + 1, s =>
    match step s with
    | .next t => run n t
    | .fault r => .fault r
    | .refused r => .refused r

end Sys2Proof.Machine
end

