-- ==== Sys2Proof/Safety.lean ====
section
/-! DEFINITION. What counts as a safe state and a good end. -/

namespace Sys2Proof.Machine

/-- Every stored selector is at most `max` (10_state.md R20). -/
def State.SelectorsUpTo (max : Nat) (s : State) : Prop := ∀ i : Slider, (s.sel.get i).toNat ≤ max

/-- The configuration is legal (10_state.md R20 to R22): what a started engine always holds. -/
def State.LegalConfig (p : Params) (s : State) : Prop :=
  s.SelectorsUpTo p.maxSelector ∧ F64.legalTonic s.tonic = true ∧ 0 < s.bpm.toInt

/-- The invariant of the machine: a started engine holds a legal configuration, and an engine that is not started is faulted
(45_engine_commands.md R76). -/
def State.Legal (p : Params) (s : State) : Prop :=
  (s.started = true → s.LegalConfig p) ∧ (s.started = false → s.fault ≠ none)

/-- The closed form of the BinaryCounter (40_counters.md R53). -/
def State.BinaryFollowsClock (s : State) : Prop := s.bc.toNat = s.clk % 32

/-- The closed form of the TripleCounter (40_counters.md R55). -/
def State.TripleFollowsClock (s : State) : Prop :=
  (s.tc.getLsbD 0).toNat = s.clk / 3 % 2 ∧ (s.tc.getLsbD 1).toNat = s.clk / 6 % 2

/-- Both closed forms (40_counters.md R53, R55), for an engine that has started: one that has not holds no value in its
counters (45_engine_commands.md R76, log 5). -/
def State.ClosedForms (s : State) : Prop := s.started = true → s.BinaryFollowsClock ∧ s.TripleFollowsClock

/-- The next command the host issues, if any, is not a RESET. -/
def State.NextIsNotReset (s : State) : Prop :=
  ∀ (w : CommandWord) (q : Ports) (rest : List Request) (r : Bool),
    s.pending = ⟨.word w, q⟩ :: rest → decode w ≠ .command (.reset r)

/-- Two states agree on every state element (60_exceptions.md R95's list). -/
def State.SameElements (s t : State) : Prop :=
  s.clk = t.clk ∧ s.bc = t.bc ∧ s.tc = t.tc ∧ s.sr = t.sr ∧ (∀ i : Slider, s.sel.get i = t.sel.get i)
    ∧ s.tonic = t.tonic ∧ s.bpm = t.bpm ∧ s.fault = t.fault

/-- The states reached from a successful INIT by PULSEs and SET_SLIDERs only, with no RESET (40_counters.md R53, R55,
42_slider_source.md R63); between commands the host may drive its ports and queue commands. -/
inductive OnInitPath : State → Prop
  | init (s t : State) : exec .init s = .next t → t.fault = none → OnInitPath t
  | pulse (s t : State) : OnInitPath s → exec .pulse s = .next t → OnInitPath t
  | setSlider (s t : State) (id : Slider) (v : Selector) :
      OnInitPath s → exec (.setSlider id v) s = .next t → OnInitPath t
  | host (s : State) (ports : Ports) (pending : List Request) :
      OnInitPath s → OnInitPath { s with ports := ports, pending := pending }

/-- A run that ended here ended well (45_engine_commands.md R80). DESIGN CHOICE (log 18): an INIT begins a new run, so `FAULT`
alone tells, and an error raised before the last INIT does not count. -/
def State.GoodEnd (s : State) : Prop := s.fault = none

end Sys2Proof.Machine
end

