-- ==== Sys2Proof/Certificates/Slice0/Obligations.lean ====
section
/-! DEFINITION. The statements for the provers. Each docstring names the rule of spec/ it formalises. -/

open Sys2Proof Sys2Proof.Machine

/-! ### Encoding -/

/-- 30_encoding.md R40: the only PULSE word is 0x1000. -/
def Obligations.PulseWordIsOnly1000 : Prop :=
  ∀ w : CommandWord,
    (decode w = .command .pulse ↔ w.extractLsb' 12 4 = 0x1#4 ∧ w.extractLsb' 0 12 = 0#12)
      ∧ (decode w = .command .pulse ↔ w = 0x1000)

/-- 30_encoding.md R46 with the masks and matches of opcode_table.json: each word is of one row's form, or illegal. -/
def Obligations.DecodeFollowsMaskAndMatch : Prop :=
  ∀ w : CommandWord,
    (decode w = .command .pulse ↔ w &&& 0xFFFF = 0x1000)
      ∧ ((∃ id sel, decode w = .command (.setSlider id sel)) ↔ w &&& 0xF1C0 = 0x2000)
      ∧ ((∃ r, decode w = .command (.reset r)) ↔ w &&& 0xFFFE = 0x3000)
      ∧ ((∃ why, decode w = .illegal why) ↔
          w &&& 0xFFFF ≠ 0x1000 ∧ w &&& 0xF1C0 ≠ 0x2000 ∧ w &&& 0xFFFE ≠ 0x3000)

/-- 30_encoding.md R39: INIT is not a command word. -/
def Obligations.InitHasNoWord : Prop :=
  (∀ w : CommandWord, decode w ≠ .command .init) ∧ encode .init = none

/-- Decoding the word of any well-formed command gives the command back, with every operand. -/
def Obligations.DecodeEncodeAgree : Prop :=
  ∀ i : Instr, i.wellFormed = true → ∃ w, encode i = some w ∧ decode w = .command i

/-- 30_encoding.md R48: each legal word is the word of the command it decodes to, so two words never mean one command. -/
def Obligations.EncodeDecodeAgree : Prop :=
  ∀ (w : CommandWord) (i : Instr), decode w = .command i → i.wellFormed = true ∧ encode i = some w

/-- The counts of 30_encoding.md R47: 515 legal words, 1 PULSE, 512 SET_SLIDER (320 of them with a selector up to 39) and 2
RESET. -/
def Obligations.LegalWordCounts : Prop :=
  let count (f : Decoded → Bool) : Nat := ((List.range 65536).filter fun n => f (decode (BitVec.ofNat 16 n))).length
  (count fun d => match d with | .command _ => true | .illegal _ => false) = 515
    ∧ (count fun d => d == .command .pulse) = 1
    ∧ (count fun d => match d with | .command (.setSlider _ _) => true | _ => false) = 512
    ∧ (count fun d => match d with | .command (.setSlider _ v) => v.toNat ≤ 39 | _ => false) = 320
    ∧ (count fun d => match d with | .command (.reset _) => true | _ => false) = 2

/-- All seventeen words of 95_test_vectors.md V8 decode as its table says. -/
def Obligations.DecodeSampleWords : Prop :=
  decode 0x1000 = .command .pulse ∧ decode 0x1001 = .illegal .mustBeZero ∧ decode 0x1800 = .illegal .mustBeZero
    ∧ decode 0x2000 = .command (.setSlider .a 0) ∧ decode 0x2027 = .command (.setSlider .a 39)
    ∧ decode 0x2028 = .command (.setSlider .a 40) ∧ decode 0x2040 = .illegal .mustBeZero
    ∧ decode 0x2404 = .command (.setSlider .c 4) ∧ decode 0x2A09 = .command (.setSlider .x 9)
    ∧ decode 0x2C01 = .command (.setSlider .y 1) ∧ decode 0x2E3F = .command (.setSlider .z 63)
    ∧ decode 0x3000 = .command (.reset false) ∧ decode 0x3001 = .command (.reset true)
    ∧ decode 0x3002 = .illegal .mustBeZero ∧ decode 0x0000 = .illegal .reservedOpcode
    ∧ decode 0x4000 = .illegal .reservedOpcode ∧ decode 0xFFFF = .illegal .reservedOpcode

/-! ### One command of the host -/

/-- A step runs the command that the host's next word decodes to, on the state whose ports are the request's and whose
pending commands are the rest; and the power-on runs INIT, whatever `FAULT` is (60_exceptions.md R87). -/
def Obligations.StepRunsTheNextCommand : Prop :=
  (∀ (s : State) (w : CommandWord) (q : Ports) (rest : List Request) (i : Instr),
      s.pending = ⟨.word w, q⟩ :: rest → s.fault = none → decode w = .command i →
      step s = exec i { s with ports := q, pending := rest })
    ∧ ∀ (s : State) (q : Ports) (rest : List Request),
      s.pending = ⟨.powerOn, q⟩ :: rest → step s = exec .init { s with ports := q, pending := rest }

/-- The model's convention (log 1, log 12): with a table word placed, the very next step runs exactly the command the word
decodes to, on the state as it was. -/
def Obligations.PlacedTableWordRuns : Prop :=
  ∀ (s : State) (nbits w : Nat) (i : Instr),
    s.fault = none → decodeTableWord nbits w = some i → step (s.withFetchWord nbits w) = exec i s

/-- With no command pending a step answers the same state: the model's convention (log 1) for a block that "changes state only
in response to a command" (45_engine_commands.md R82) and holds its state between commands (60_exceptions.md R94). -/
def Obligations.NoCommandNoChange : Prop :=
  ∀ s : State, s.pending = [] → step s = .next s

/-- 30_encoding.md R47 with 60_exceptions.md R84, R86: an illegal word raises IllegalCommand, code 0x4 with the word as its
info, and changes nothing else. -/
def Obligations.IllegalWordRaises : Prop :=
  ∀ (s : State) (w : CommandWord) (q : Ports) (rest : List Request) (why : IllegalWord),
    s.pending = ⟨.word w, q⟩ :: rest → s.fault = none → decode w = .illegal why →
    step s = .next { s with
      ports := q
      pending := rest
      fault := some (.illegalCommand w)
      responses := ⟨0x4, 0, 0⟩ :: s.responses }

/-- 60_exceptions.md R87: while faulted, every command word, illegal ones too, is refused with no effect and the response
FAULTED, and so is each command; only INIT leaves the faulted state, and `FAULT` keeps its first error. -/
def Obligations.FaultedEngineRefuses : Prop :=
  (∀ (s : State) (e : ErrorInfo) (w : CommandWord) (q : Ports) (rest : List Request),
      s.fault = some e → s.pending = ⟨.word w, q⟩ :: rest →
      step s = .next { s with ports := q, pending := rest, responses := ⟨0x5, 0, 0⟩ :: s.responses })
    ∧ (∀ (s : State) (e : ErrorInfo) (i : Instr), s.fault = some e → i ≠ .init →
        exec i s = .next { s with responses := ⟨0x5, 0, 0⟩ :: s.responses })
    ∧ ∀ (s t : State) (e : ErrorInfo), s.fault = some e → step s = .next t → t.fault ≠ some e →
        ∃ q rest, s.pending = ⟨.powerOn, q⟩ :: rest

/-- 10_state.md R23 and 45_engine_commands.md R80: a run without a power-on keeps the first error, every state element and
what the debug view shows, to its end; every response in it is FAULTED. -/
def Obligations.FaultedRunStaysFaulted : Prop :=
  ∀ (n : Nat) (s : State) (e : ErrorInfo),
    s.fault = some e → (∀ r ∈ s.pending, r.command ≠ .powerOn) →
    ∃ t rs, run n s = .next t ∧ t.fault = some e ∧ ¬ t.GoodEnd ∧ t.SameElements s
      ∧ t.debugView = s.debugView
      ∧ t.responses = rs ++ s.responses ∧ ∀ r ∈ rs, r.status = 0x5

/-- 60_exceptions.md R88: which error is reported where several apply. For a word: FAULTED, then ILLEGAL_COMMAND, then
CFG_SELECTOR. For INIT: the lowest failing slider id, then CFG_BPM, then CFG_TONIC. -/
def Obligations.ErrorPriority : Prop :=
  (∀ (s t : State) (w : CommandWord) (q : Ports) (rest : List Request),
      s.pending = ⟨.word w, q⟩ :: rest → step s = .next t →
      (s.fault ≠ none → t.fault = s.fault ∧ t.responses = ⟨0x5, 0, 0⟩ :: s.responses)
        ∧ (s.fault = none → (∃ why, decode w = .illegal why) →
            t.fault = some (.illegalCommand w) ∧ t.responses = ⟨0x4, 0, 0⟩ :: s.responses)
        ∧ (s.fault = none → ∀ id v, decode w = .command (.setSlider id v) → 39 < v.toNat →
            t.fault = some (.cfgSelector id v) ∧ t.responses = ⟨0x1, 0, 0⟩ :: s.responses))
    ∧ ∀ (s t : State), exec .init s = .next t →
      (∀ id : Slider, 39 < (s.ports.selIn.get id).toNat →
          (∀ j : Slider, j.id.toNat < id.id.toNat → (s.ports.selIn.get j).toNat ≤ 39) →
          t.fault = some (.cfgSelector id (s.ports.selIn.get id)) ∧ t.responses = ⟨0x1, 0, 0⟩ :: s.responses)
        ∧ ((∀ j : Slider, (s.ports.selIn.get j).toNat ≤ 39) → s.ports.bpmIn.toInt ≤ 0 →
            t.fault = some (.cfgBpm s.ports.bpmIn) ∧ t.responses = ⟨0x2, 0, 0⟩ :: s.responses)
        ∧ ((∀ j : Slider, (s.ports.selIn.get j).toNat ≤ 39) → 0 < s.ports.bpmIn.toInt →
            F64.legalTonic s.ports.tonicIn = false →
            t.fault = some (.cfgTonic s.ports.tonicIn) ∧ t.responses = ⟨0x3, 0, 0⟩ :: s.responses)

/-- 30_encoding.md R45 and 60_exceptions.md R84: a command returns exactly one response, its status is one of 0x0 to 0x5,
and outside an OK PULSE its `degree` and `freq` are zero. -/
def Obligations.EveryCommandAnswersOnce : Prop :=
  ∀ (s t : State) (r : Request) (rest : List Request),
    s.pending = r :: rest → step s = .next t →
    t.pending = rest ∧ ∃ a : Response, t.responses = a :: s.responses ∧ a.status.toNat ≤ 5
      ∧ (a.status ≠ 0x0 ∨ r.command ≠ .word 0x1000 → a.degree = 0 ∧ a.freq = 0)

/-- 30_encoding.md R49: a line of the assembler syntax is the host's request for the command it names, whether the engine is
faulted or not: the command itself is then refused, but for INIT. The line forms in place of characters, and the ports a line
does not name keeping the values `idle` gives them, are the model's choice (log 17). -/
def Obligations.AssemblerLinesRunTheirCommands : Prop :=
  ∀ (s : State) (idle : Ports) (rest : List Request),
    (step { s with pending := assemble idle .pulse :: rest }
        = exec .pulse { s with ports := idle, pending := rest })
      ∧ (∀ id n, step { s with pending := assemble idle (.setsl id n) :: rest }
        = exec (.setSlider id n) { s with ports := idle, pending := rest })
      ∧ (step { s with pending := assemble idle .reset :: rest }
        = exec (.reset false) { s with ports := idle, pending := rest })
      ∧ (∀ h, step { s with pending := assemble idle (.resetSeed h) :: rest }
        = exec (.reset true) { s with ports := { idle with seedIn := h }, pending := rest })
      ∧ ∀ cfg, step { s with pending := assemble idle (.init cfg) :: rest }
        = exec .init { s with ports := cfg, pending := rest }

/-! ### PULSE -/

/-- 45_engine_commands.md R72: PULSE as a function of the pre-state, for the block's own parameters and for any others; and
steps 3, 4 and 6 may be computed in any order. -/
def Obligations.PulseResult : Prop :=
  (∀ (p : Params) (s : State), s.fault = none → s.SelectorsUpTo 39 →
      ∃ out : PerSlider Bool, (∀ i : Slider, sliderOutput s (s.sel.get i) = some (out.get i)) ∧
        let c' := match p.clockWidth with
          | none => s.clk + 1
          | some w => (s.clk + 1) % 2 ^ w
        let degree := encodeIndex out.a out.b out.c out.d
        let after : State := { s with
          clk := c'
          bc := bcNext c' s.bc
          tc := tcNext c' s.tc
          sr := (s.sr.extractLsb' 0 30).concat (parity out.w out.x out.y out.z)
          responses := ⟨0x0, degree, freqF64 p.semitoneRatio s.tonic (halfTone degree)⟩ :: s.responses }
        pulseWith p s = .next after ∧ (p = specParams → exec .pulse s = .next after))
    ∧ ∀ (b : Bool) (s : State),
      bcAdvance (tcAdvance s) = tcAdvance (bcAdvance s)
        ∧ bcAdvance (srAdvance b s) = srAdvance b (bcAdvance s)
        ∧ tcAdvance (srAdvance b s) = srAdvance b (tcAdvance s)

/-- 60_exceptions.md R85: a PULSE of an engine that is not faulted raises nothing, whatever its tonic and so also where the
frequency overflows. -/
def Obligations.PulseRaisesNothing : Prop :=
  ∀ s : State, s.fault = none → s.SelectorsUpTo 39 →
    ∃ t a, exec .pulse s = .next t ∧ t.fault = none ∧ t.responses = a :: s.responses ∧ a.status = 0x0

/-- 45_engine_commands.md R71's corner case, the source's scenario (95_test_vectors.md W9): with every slider on selector 0,
a PULSE plays degree 0 at exactly the tonic and pushes 0. -/
def Obligations.AllSlidersOffPlaysTheTonic : Prop :=
  ∀ s : State, s.fault = none → (∀ i : Slider, s.sel.get i = 0) → F64.legalTonic s.tonic = true →
    ∃ t, exec .pulse s = .next t ∧ t.responses = ⟨0x0, 0, s.tonic⟩ :: s.responses
      ∧ t.sr.toNat = 2 * s.sr.toNat % 2 ^ 31 ∧ t.clk = s.clk + 1

/-- 70_reset_and_hazards.md R106: from an all-zero ShiftRegister, with every theme slider on the constant 0 or on an `SR`
position, a PULSE leaves the ShiftRegister all-zero. -/
def Obligations.AllZeroShiftRegisterStays : Prop :=
  ∀ s : State, s.fault = none → s.SelectorsUpTo 39 → s.sr = 0 →
    (∀ i ∈ [Slider.w, .x, .y, .z], (s.sel.get i).toNat = 0 ∨ 9 ≤ (s.sel.get i).toNat) →
    ∃ t, exec .pulse s = .next t ∧ t.sr = 0 ∧ t.sel = s.sel

/-! ### Clock and counters -/

/-- 40_counters.md R50: CLOCK_PULSE adds one to an unbounded Clock, which is then never 0, and wraps a Clock of finite width W
from 2^W - 1 to 0; it writes the Clock only; and it is what a PULSE does to the Clock, before both counters advance. -/
def Obligations.ClockPulseCounts : Prop :=
  (∀ (p : Params) (s : State),
      (p.clockWidth = none → clockPulse p s = { s with clk := s.clk + 1 } ∧ (clockPulse p s).clk ≠ 0)
        ∧ ∀ w, p.clockWidth = some w →
          clockPulse p s = { s with clk := (s.clk + 1) % 2 ^ w }
            ∧ (s.clk = 2 ^ w - 1 → (clockPulse p s).clk = 0))
    ∧ ∀ (p : Params) (s t : State), s.fault = none → pulseWith p s = .next t →
      t.clk = (clockPulse p s).clk ∧ t.bc = (bcAdvance (clockPulse p s)).bc ∧ t.tc = (tcAdvance (clockPulse p s)).tc

/-- 40_counters.md R52: BC_ADVANCE, bit by bit. From 11111 it gives 00000 whatever the Clock is; else bit `p` toggles exactly
when 2^p divides the Clock, so bit 0 always. A PULSE does this with its new Clock value. -/
def Obligations.BinaryCounterAdvances : Prop :=
  (∀ s : State,
      (s.bc = 0b11111 → bcAdvance s = { s with bc := 0b00000 })
        ∧ (s.bc ≠ 0b11111 → ∃ b, bcAdvance s = { s with bc := b } ∧ b.getLsbD 0 = !s.bc.getLsbD 0 ∧ ∀ p < 5,
            b.getLsbD p = if s.clk % 2 ^ p = 0 then !s.bc.getLsbD p else s.bc.getLsbD p))
    ∧ ∀ s t : State, s.fault = none → exec .pulse s = .next t →
      t.bc = (bcAdvance { s with clk := s.clk + 1 }).bc

/-- 40_counters.md R54: TC_ADVANCE, bit by bit. `TC[0]` toggles exactly when 3 divides the Clock and `TC[1]` exactly when 6
does; there is no reset condition. A PULSE does this with its new Clock value. -/
def Obligations.TripleCounterAdvances : Prop :=
  (∀ s : State, ∃ b, tcAdvance s = { s with tc := b }
      ∧ b.getLsbD 0 = (if s.clk % 3 = 0 then !s.tc.getLsbD 0 else s.tc.getLsbD 0)
      ∧ b.getLsbD 1 = (if s.clk % 6 = 0 then !s.tc.getLsbD 1 else s.tc.getLsbD 1))
    ∧ ∀ s t : State, s.fault = none → exec .pulse s = .next t →
      t.tc = (tcAdvance { s with clk := s.clk + 1 }).tc

/-- 40_counters.md R53: on the path from INIT without RESET, the BinaryCounter is the Clock mod 32, bit by bit; the advance
keeps that form; and off the path the all-ones rule matters. -/
def Obligations.BinaryCounterClosedForm : Prop :=
  (∀ (c : Nat) (bc : BitVec 5), 1 ≤ c → bc.toNat = (c - 1) % 32 → (bcNext c bc).toNat = c % 32)
    ∧ (∀ s : State, OnInitPath s → s.bc.toNat = s.clk % 32 ∧ ∀ p < 5, s.bc.getLsbD p = s.clk.testBit p)
    ∧ bcNext 1 0b11111 = 0b00000
    ∧ toggleWhere (fun p => decide (1 % 2 ^ p = 0)) (0b11111 : BitVec 5) = 0b11110

/-- 40_counters.md R55: on the path from INIT without RESET, the TripleCounter's bits are `(CLK div 3) mod 2` and
`(CLK div 6) mod 2`, and the pair repeats with period 12 as the rule lists it for `CLK` = 1 to 12. -/
def Obligations.TripleCounterClosedForm : Prop :=
  ∀ s : State, OnInitPath s →
    (s.tc.getLsbD 0).toNat = s.clk / 3 % 2
      ∧ (s.tc.getLsbD 1).toNat = s.clk / 6 % 2
      ∧ (1 ≤ s.clk → [(false, false), (false, false), (true, false), (true, false), (true, false), (false, true),
          (false, true), (false, true), (true, true), (true, true), (true, true), (false, false)][(s.clk - 1) % 12]?
            = some (s.tc.getLsbD 0, s.tc.getLsbD 1))

/-- 40_counters.md R56: the advances see the Clock only mod 16 and mod 6, so both only mod 48, and on the path from INIT the
counters repeat with period 96. -/
def Obligations.CountersSeeTheClockMod48 : Prop :=
  (∀ (c : Nat) (bc : BitVec 5), bcNext c bc = bcNext (c % 16) bc ∧ bcNext c bc = bcNext (c % 48) bc)
    ∧ (∀ (c : Nat) (tc : BitVec 2), tcNext c tc = tcNext (c % 6) tc ∧ tcNext c tc = tcNext (c % 48) tc)
    ∧ ∀ s t : State, OnInitPath s → OnInitPath t → s.clk % 96 = t.clk % 96 → s.bc = t.bc ∧ s.tc = t.tc

/-- 70_reset_and_hazards.md R99: RESET keeps the counters while the Clock goes to 0, so after it the closed forms hold exactly
when both counters were zero. -/
def Obligations.ResetKeepsTheCounters : Prop :=
  ∀ (s : State) (r : Bool), s.fault = none →
    ∃ t, exec (.reset r) s = .next t ∧ t.clk = 0 ∧ t.bc = s.bc ∧ t.tc = s.tc
      ∧ (t.BinaryFollowsClock ∧ t.TripleFollowsClock ↔ s.bc = 0 ∧ s.tc = 0)

/-- 70_reset_and_hazards.md R105: with a Clock of finite width W of at least 5 bits, the BinaryCounter's closed form survives
every PULSE, the wrapping one too; the PULSE that wraps the Clock toggles both bits of the TripleCounter. -/
def Obligations.FiniteClockWrap : Prop :=
  ∀ (p : Params) (w : Nat) (s : State), p.clockWidth = some w → 5 ≤ w → s.fault = none → s.SelectorsUpTo 39 →
    s.clk < 2 ^ w → s.bc.toNat = s.clk % 32 →
    ∃ t, pulseWith p s = .next t ∧ t.clk < 2 ^ w ∧ t.bc.toNat = t.clk % 32
      ∧ (s.clk = 2 ^ w - 1 → t.clk = 0 ∧ t.tc = ~~~s.tc)

/-! ### ShiftRegister -/

/-- 41_shift_register.md R57: SR_ADVANCE, bit by bit and as a number; it writes the ShiftRegister only. A PULSE does this with
the parity of its snapshot. -/
def Obligations.ShiftRegisterAdvances : Prop :=
  (∀ (s : State) (b : Bool), ∃ sr', srAdvance b s = { s with sr := sr' }
      ∧ sr'.getLsbD 0 = b
      ∧ (∀ k, 1 ≤ k → k ≤ 30 → sr'.getLsbD k = s.sr.getLsbD (k - 1))
      ∧ sr'.toNat = (s.sr.toNat <<< 1 ||| b.toNat) % 2 ^ 31)
    ∧ ∀ (s t : State) (snap : PerSlider Bool), s.fault = none → snapshot s = some snap → exec .pulse s = .next t →
      t.sr = (srAdvance (parity snap.w snap.x snap.y snap.z) s).sr

/-- 41_shift_register.md R59: after PULSE `n` since the register held `seed`, position `k` holds the parity bit of PULSE
`n - k`, or seed bit `k - n`. `f j` is the state before PULSE `j + 1`; between PULSEs anything may happen that keeps the
register. -/
def Obligations.ShiftRegisterHistory : Prop :=
  ∀ (n : Nat) (f : Nat → State) (P : Nat → Bool) (seed : Stages),
    (f 0).sr = seed →
    (∀ j < n, (f j).fault = none ∧
      (∃ snap, snapshot (f j) = some snap ∧ P (j + 1) = parity snap.w snap.x snap.y snap.z) ∧
      ∃ t, exec .pulse (f j) = .next t ∧ (f (j + 1)).sr = t.sr) →
    ∀ k ≤ 30, (f n).sr.getLsbD k = if 1 ≤ n - k then P (n - k) else seed.getLsbD (k - n)

/-- 70_reset_and_hazards.md R101: the parity bit of PULSE `n` is what a slider on `SR[k]`, selector `9 + k`, reads in the
snapshot of PULSE `n + k + 1`. `f j` is the state before PULSE `j + 1`, so PULSE `n = m + 1` runs on `f m` and PULSE
`n + k + 1` on `f (m + 1 + k)`; between PULSEs anything may happen that keeps the ShiftRegister. -/
def Obligations.FeedbackLatency : Prop :=
  ∀ (m k : Nat) (f : Nat → State) (v : Selector) (snap : PerSlider Bool), k ≤ 30 → v.toNat = 9 + k →
    (∀ j ≤ m + k, (f j).fault = none ∧ ∃ t, exec .pulse (f j) = .next t ∧ (f (j + 1)).sr = t.sr) →
    snapshot (f m) = some snap →
    sliderOutput (f (m + 1 + k)) v = some (parity snap.w snap.x snap.y snap.z)

/-! ### Sliders -/

/-- 42_slider_source.md R60: SLIDER_OUTPUT is the element of the 40-element source sequence at the selector, with the map the
rule gives; above 39 there is none. -/
def Obligations.SliderOutputIndexesTheSources : Prop :=
  ∀ (s : State) (v : Selector),
    sliderOutput s v = (sourceSequence s)[v.toNat]?
      ∧ (v.toNat = 0 → sliderOutput s v = some false)
      ∧ (v.toNat = 1 → sliderOutput s v = some true)
      ∧ (∀ p ≤ 4, v.toNat = 2 + p → sliderOutput s v = some (s.bc.getLsbD p))
      ∧ (∀ p ≤ 1, v.toNat = 7 + p → sliderOutput s v = some (s.tc.getLsbD p))
      ∧ (∀ k ≤ 30, v.toNat = 9 + k → sliderOutput s v = some (s.sr.getLsbD k))
      ∧ (40 ≤ v.toNat → sliderOutput s v = none)

/-- 42_slider_source.md R61: SELECTOR_CHECK raises CFG_SELECTOR with the slider id and the value exactly above
`MAX_SELECTOR`: from 40 with the default, from 38 with the alternative. -/
def Obligations.SelectorCheckBounds : Prop :=
  (∀ (p : Params) (i : Slider) (v : Selector),
      (p.maxSelector < v.toNat → selectorCheck p i v = some (.cfgSelector i v))
        ∧ (v.toNat ≤ p.maxSelector → selectorCheck p i v = none))
    ∧ (∀ (i : Slider) (v : Selector), selectorCheck specParams i v = none ↔ v.toNat ≤ 39)
    ∧ ∀ (i : Slider) (v : Selector),
        selectorCheck { specParams with maxSelector := 37 } i v = none ↔ v.toNat ≤ 37

/-- 42_slider_source.md R63: on the path from INIT without RESET, a slider on selector `2 + p` reads bit `p` of the Clock mod
32, on 7 `(c div 3) mod 2`, on 8 `(c div 6) mod 2`, in a PULSE that starts at Clock `c`; so A, B, C, D on 2, 3, 4, 5 play
degree `c mod 16`. -/
def Obligations.CounterBoundSliders : Prop :=
  ∀ s : State, OnInitPath s →
    (∀ p ≤ 4, ∀ v : Selector, v.toNat = 2 + p → sliderOutput s v = some ((s.clk % 32).testBit p))
      ∧ (sliderOutput s 7 = some (decide (s.clk / 3 % 2 = 1)))
      ∧ (sliderOutput s 8 = some (decide (s.clk / 6 % 2 = 1)))
      ∧ (s.fault = none → s.SelectorsUpTo 39 → s.sel.a = 2 → s.sel.b = 3 → s.sel.c = 4 → s.sel.d = 5 →
          ∃ t a, exec .pulse s = .next t ∧ t.responses = a :: s.responses ∧ a.degree.toNat = s.clk % 16)

/-- 70_reset_and_hazards.md R100: a SET_SLIDER is seen by the snapshot of the next PULSE, on that slider and on no other. -/
def Obligations.SliderWriteSeenByNextPulse : Prop :=
  ∀ (s : State) (id : Slider) (v : Selector), s.fault = none → v.toNat ≤ 39 →
    ∃ t, exec (.setSlider id v) s = .next t ∧ ∀ j : Slider,
      sliderOutput t (t.sel.get j) = if j = id then sliderOutput s v else sliderOutput s (s.sel.get j)

/-! ### Parity and notes -/

/-- 43_parity.md R64: the parity is the sum of the four theme bits mod 2, their exclusive or; in a PULSE it is the bit that
enters position 0, whatever the interval sliders hold. -/
def Obligations.ParityOfTheThemeSliders : Prop :=
  (∀ w x y z : Bool, (parity w x y z).toNat = (w.toNat + x.toNat + y.toNat + z.toNat) % 2
      ∧ parity w x y z = (w ^^ x ^^ y ^^ z))
    ∧ ∀ (s : State) (w x y z : Bool), s.fault = none → s.SelectorsUpTo 39 →
      sliderOutput s s.sel.w = some w → sliderOutput s s.sel.x = some x →
      sliderOutput s s.sel.y = some y → sliderOutput s s.sel.z = some z →
      ∃ t, exec .pulse s = .next t ∧ t.sr.getLsbD 0 = (w ^^ x ^^ y ^^ z)

/-- 44_note_mapper.md R65 with R70: ENCODE is a + 2b + 4c + 8d, and a bijection from four bits to 0..15. -/
def Obligations.NoteIndexIsABijection : Prop :=
  (∀ a b c d : Bool, (encodeIndex a b c d).toNat = a.toNat + 2 * b.toNat + 4 * c.toNat + 8 * d.toNat)
    ∧ (∀ a b c d a' b' c' d' : Bool, encodeIndex a b c d = encodeIndex a' b' c' d' →
        a = a' ∧ b = b' ∧ c = c' ∧ d = d')
    ∧ ∀ n : Degree, ∃ a b c d : Bool, encodeIndex a b c d = n

/-- 44_note_mapper.md R67: HALFTONE reads the literal table of R66, within 0..24; indices 14 and 15 give the same note under
every ratio and tonic. -/
def Obligations.HalfToneTable : Prop :=
  (∀ index : Degree,
      [0, 2, 4, 5, 7, 9, 11, 12, 14, 16, 17, 19, 21, 23, 24, 24][index.toNat]? = some (halfTone index).toNat
        ∧ (halfTone index).toNat ≤ 24)
    ∧ ∀ (ratio : SemitoneRatio) (t : Binary64), toFrequency ratio t 14 = toFrequency ratio t 15

/-- 44_note_mapper.md R69: (a) half-tone 0 is exactly the tonic; (b) the frequency is a function of the tonic, the half-tone
count and the ratio (so by its type); (c) where t·ρ^h lies in the normal range, the result is within a relative error of 2^-45.
In units of 2^-1074, ρ^h is the `rhoDegree`-th root of `rhoNum / rhoDen`, so (c) is stated on that power, with T the units of
`t` and R those of the result: (2^45 - 1)·T·ρ^h ≤ 2^45·R ≤ (2^45 + 1)·T·ρ^h. That a result within the bound is a positive
finite encoding is DEDUCED (log 6): only of such an encoding is R its value. -/
def Obligations.FrequencyProperties : Prop :=
  (∀ (ratio : SemitoneRatio) (t : Binary64), F64.legalTonic t = true → freqF64 ratio t 0 = t)
    ∧ ∀ (ratio : SemitoneRatio) (t : Binary64) (h : HalfTones), F64.legalTonic t = true → h.toNat ≤ 24 →
      let d := rhoDegree ratio
      let T := F64.units t
      let R := F64.units (freqF64 ratio t h)
      F64.minNormalUnits ^ d * rhoDen ratio h ≤ T ^ d * rhoNum ratio h →
      T ^ d * rhoNum ratio h ≤ F64.maxFiniteUnits ^ d * rhoDen ratio h →
      F64.legalTonic (freqF64 ratio t h) = true
        ∧ ((2 ^ 45 - 1) * T) ^ d * rhoNum ratio h ≤ (2 ^ 45 * R) ^ d * rhoDen ratio h
        ∧ (2 ^ 45 * R) ^ d * rhoDen ratio h ≤ ((2 ^ 45 + 1) * T) ^ d * rhoNum ratio h

/-- 44_note_mapper.md R70: with the exact ratio, index 7 is the octave: a positive finite value (log 6) within a relative
error of 2^-45 of twice the tonic, where twice the tonic is a normal value. -/
def Obligations.OctaveAtIndexSeven : Prop :=
  ∀ t : Binary64, F64.legalTonic t = true → F64.minNormalUnits ≤ 2 * F64.units t →
    2 * F64.units t ≤ F64.maxFiniteUnits →
    let R := F64.units (toFrequency .exact t 7)
    F64.legalTonic (toFrequency .exact t 7) = true
      ∧ (2 ^ 45 - 1) * (2 * F64.units t) ≤ 2 ^ 45 * R
      ∧ 2 ^ 45 * R ≤ (2 ^ 45 + 1) * (2 * F64.units t)

/-- 44_note_mapper.md R68: with either ratio, an index whose t·ρ^h exceeds DBL_MAX plays +infinity, and index 0 never does;
that the PULSE raises no error then, `PulseRaisesNothing` says. As in `FrequencyProperties` the comparison is of the
`rhoDegree`-th powers. The boundary itself is the model's reading (log 7). -/
def Obligations.FrequencyOverflow : Prop :=
  (∀ (ratio : SemitoneRatio) (t : Binary64) (index : Degree), F64.legalTonic t = true →
      F64.maxFiniteUnits ^ rhoDegree ratio * rhoDen ratio (halfTone index)
        < F64.units t ^ rhoDegree ratio * rhoNum ratio (halfTone index) →
      toFrequency ratio t index = 0x7FF0000000000000)
    ∧ ∀ (ratio : SemitoneRatio) (t : Binary64), F64.legalTonic t = true → toFrequency ratio t 0 ≠ 0x7FF0000000000000

/-! ### SET_SLIDER, RESET, INIT -/

/-- 45_engine_commands.md R73: SET_SLIDER stores a selector up to 39 in its own register, whatever the register held, and
nothing else; a selector above it raises CFG_SELECTOR and stores nothing; while faulted it is refused. -/
def Obligations.SetSliderResult : Prop :=
  ∀ (s : State) (id : Slider) (v : Selector),
    (s.fault = none → v.toNat ≤ 39 → ∃ sel', exec (.setSlider id v) s = .next { s with
        sel := sel'
        responses := ⟨0x0, 0, 0⟩ :: s.responses }
      ∧ sel'.get id = v ∧ (∀ j : Slider, j ≠ id → sel'.get j = s.sel.get j)
      ∧ (s.sel.get id = v → sel' = s.sel))
    ∧ (s.fault = none → 39 < v.toNat → exec (.setSlider id v) s = .next { s with
        fault := some (.cfgSelector id v)
        responses := ⟨0x1, 0, 0⟩ :: s.responses })
    ∧ (s.fault ≠ none → exec (.setSlider id v) s = .next { s with responses := ⟨0x5, 0, 0⟩ :: s.responses })

/-- 45_engine_commands.md R74: RESET sets the Clock to 0 and, with `r` 1, loads the ShiftRegister from the seed port; it
touches nothing else; at Clock 0 with `r` 0 it changes nothing; while faulted it is refused. -/
def Obligations.ResetResult : Prop :=
  ∀ (s : State) (r : Bool),
    (s.fault = none → exec (.reset r) s = .next { s with
        clk := 0
        sr := if r then s.ports.seedIn else s.sr
        responses := ⟨0x0, 0, 0⟩ :: s.responses })
    ∧ (s.fault = none → s.clk = 0 → r = false →
        exec (.reset r) s = .next { s with responses := ⟨0x0, 0, 0⟩ :: s.responses })
    ∧ (s.fault ≠ none → exec (.reset r) s = .next { s with responses := ⟨0x5, 0, 0⟩ :: s.responses })

/-- 45_engine_commands.md R75: with eight selectors up to 39, a positive tempo and a finite positive tonic, INIT writes every
element from the ports, whatever the state was and `FAULT` too; else the first failing check, the selectors in id order, then
the tempo, then the tonic, is the error. Which tonics are legal, `LegalTonics` says. -/
def Obligations.InitResult : Prop :=
  ∀ s : State,
    ((∀ i : Slider, (s.ports.selIn.get i).toNat ≤ 39) → 0 < s.ports.bpmIn.toInt →
      F64.legalTonic s.ports.tonicIn = true →
      exec .init s = .next { s with
        clk := 0
        bc := 0
        tc := 0
        sr := s.ports.seedIn
        sel := s.ports.selIn
        tonic := s.ports.tonicIn
        bpm := s.ports.bpmIn
        fault := none
        started := true
        responses := ⟨0x0, 0, 0⟩ :: s.responses })
    ∧ (¬ ((∀ i : Slider, (s.ports.selIn.get i).toNat ≤ 39) ∧ 0 < s.ports.bpmIn.toInt
        ∧ F64.legalTonic s.ports.tonicIn = true) →
      ∃ t e, exec .init s = .next t ∧ t.fault = some e ∧ t.responses = ⟨e.code, 0, 0⟩ :: s.responses
        ∧ ((∃ i : Slider, 39 < (s.ports.selIn.get i).toNat
              ∧ (∀ j : Slider, j.id.toNat < i.id.toNat → (s.ports.selIn.get j).toNat ≤ 39)
              ∧ e = .cfgSelector i (s.ports.selIn.get i))
          ∨ ((∀ j : Slider, (s.ports.selIn.get j).toNat ≤ 39) ∧ s.ports.bpmIn.toInt ≤ 0 ∧ e = .cfgBpm s.ports.bpmIn)
          ∨ ((∀ j : Slider, (s.ports.selIn.get j).toNat ≤ 39) ∧ 0 < s.ports.bpmIn.toInt
              ∧ F64.legalTonic s.ports.tonicIn = false ∧ e = .cfgTonic s.ports.tonicIn)))

/-- 45_engine_commands.md R75's corner cases: which tonics are legal. Both zeros, negative values, infinities and NaNs fail;
every positive finite value passes, a subnormal too. -/
def Obligations.LegalTonics : Prop :=
  ∀ t : Binary64, F64.legalTonic t = true ↔ 0 < t.toNat ∧ t.toNat < 0x7FF0000000000000

/-- 45_engine_commands.md R76: a failed INIT leaves the error in `FAULT` and no value in any other element; every command word
after it is refused; and INIT, with a legal configuration, leaves this state. That "holds no value" is `started` false and a
debug view of the error alone is the model's choice, with R76 read as ruling over R86 (log 5). -/
def Obligations.FailedInitPreventsStart : Prop :=
  (∀ (s t : State) (e : ErrorInfo), exec .init s = .next t → t.fault = some e →
      t.started = false ∧ t.debugView = ⟨some e, none⟩)
    ∧ (∀ (s : State) (e : ErrorInfo) (w : CommandWord) (q : Ports) (rest : List Request),
        s.debugView = ⟨some e, none⟩ → s.pending = ⟨.word w, q⟩ :: rest →
        ∃ t, step s = .next t ∧ t.debugView = ⟨some e, none⟩ ∧ t.responses = ⟨0x5, 0, 0⟩ :: s.responses)
    ∧ ∀ (s t : State), s.started = false → exec .init s = .next t → t.fault = none → t.started = true

/-- 45_engine_commands.md R77: which commands change what, over all commands at once. -/
def Obligations.CommandFootprints : Prop :=
  ∀ (i : Instr) (s t : State), exec i s = .next t → i ≠ .init →
    (t.bc ≠ s.bc ∨ t.tc ≠ s.tc → i = .pulse)
      ∧ (t.clk ≠ s.clk → i = .pulse ∨ ∃ r, i = .reset r)
      ∧ (t.sr ≠ s.sr → i = .pulse ∨ i = .reset true)
      ∧ (∀ j : Slider, t.sel.get j ≠ s.sel.get j → ∃ v, i = .setSlider j v)
      ∧ t.tonic = s.tonic ∧ t.bpm = s.bpm
      ∧ (∀ a, t.responses = a :: s.responses → a.status = 0x0 → a.freq ≠ 0 → i = .pulse)

/-- The frames of the four commands (10_state.md R16 to R24 with 45_engine_commands.md R71 to R75): what each leaves unchanged
whenever it answers a next state. The block has no memory (20_memory.md R29). -/
def Obligations.CommandFrames : Prop :=
  ∀ (i : Instr) (s t : State), exec i s = .next t →
    (t.ports = s.ports ∧ t.pending = s.pending)
      ∧ (i ≠ .init → t.tonic = s.tonic ∧ t.bpm = s.bpm ∧ t.started = s.started ∧ t.initFailures = s.initFailures)
      ∧ (i = .pulse → t.sel = s.sel ∧ t.fault = s.fault)
      ∧ (∀ id v, i = .setSlider id v → t.clk = s.clk ∧ t.bc = s.bc ∧ t.tc = s.tc ∧ t.sr = s.sr
          ∧ ∀ j, j ≠ id → t.sel.get j = s.sel.get j)
      ∧ (∀ r, i = .reset r → t.bc = s.bc ∧ t.tc = s.tc ∧ t.sel = s.sel ∧ t.fault = s.fault
          ∧ (r = false → t.sr = s.sr))

/-- 30_encoding.md R43, R44: the ports are read by INIT only, but for the seed port, which a RESET with `r` 1 reads too. -/
def Obligations.PortsReadOnlyWhereStated : Prop :=
  ∀ (i : Instr) (s t : State) (q : Ports), i ≠ .init → (i = .reset true → q.seedIn = s.ports.seedIn) →
    exec i s = .next t → exec i { s with ports := q } = .next { t with ports := q }

/-- 10_state.md R22: no rule of the block reads `BPM`: a command other than INIT does the same whatever `BPM` is. -/
def Obligations.BpmIsNeverRead : Prop :=
  ∀ (i : Instr) (s t : State) (b : BitVec 32), i ≠ .init →
    exec i s = .next t → exec i { s with bpm := b } = .next { t with bpm := b }

/-! ### The whole machine -/

/-- 10_state.md R28 and 70_reset_and_hazards.md R96: the reset state is the result of a power-on INIT, with the Clock and both
counters 0 and no fault. The configuration and seed are those of R75's example, the model's choice (log 3). -/
def Obligations.ResetIsAPowerOnInit : Prop :=
  State.reset.clk = 0 ∧ State.reset.bc = 0 ∧ State.reset.tc = 0 ∧ State.reset.fault = none
    ∧ State.reset.started = true
    ∧ ∀ s : State, s.ports = Ports.example75 → s.responses = [] → s.pending = [] → s.initFailures = 0 →
      exec .init s = .next State.reset

/-- The reset state is legal: the configuration R75's example gives is one INIT accepts (log 3). -/
def Obligations.ResetStateIsLegal : Prop := State.reset.Legal specParams

/-- 10_state.md R20 to R22 with 45_engine_commands.md R76, over every step: a started engine holds legal selectors, a legal
tonic and a legal tempo, and an engine that is not started is faulted. -/
def Obligations.StepKeepsStateLegal : Prop :=
  ∀ s t : State, s.Legal specParams → step s = .next t → t.Legal specParams

/-- 00_scope.md R7 to R9: under any parameters, the alternative `MAX_SELECTOR` 37 and a finite Clock among them, every step
keeps the state legal for those parameters; and the machine is the one with the spec's parameters (log 9). -/
def Obligations.StepKeepsStateLegalUnderAnyParameters : Prop :=
  (∀ (p : Params) (s t : State), s.Legal p → stepWith p s = .next t → t.Legal p)
    ∧ ∀ s : State, stepWith specParams s = step s

/-- 42_slider_source.md R60 and 90_conflicts.md C6: from a legal state no run ever meets the source's index-out-of-bounds
failure, or stops at all, whatever the host issues. -/
def Obligations.LegalRunsNeverStop : Prop :=
  ∀ (n : Nat) (s : State), s.Legal specParams → ∃ t, run n s = .next t ∧ t.Legal specParams

/-- 45_engine_commands.md R78: two blocks, whatever their histories, that are given the same INIT operands and the same
commands after it give the same responses and the same state after every command: both have started or neither has, the debug
views agree, and if they have started every element agrees. After a failed INIT the elements hold no value, and the debug view
hides them: the model's choice (log 5). -/
def Obligations.RunsAreDeterminedByInit : Prop :=
  ∀ (n : Nat) (s₁ s₂ : State) (q : Ports) (commands : List Request),
    s₁.pending = ⟨.powerOn, q⟩ :: commands → s₂.pending = ⟨.powerOn, q⟩ :: commands →
    ∃ t₁ t₂ rs, run (n + 1) s₁ = .next t₁ ∧ run (n + 1) s₂ = .next t₂
      ∧ t₁.started = t₂.started ∧ t₁.debugView = t₂.debugView ∧ (t₁.started = true → t₁.SameElements t₂)
      ∧ t₁.responses = rs ++ s₁.responses ∧ t₂.responses = rs ++ s₂.responses

/-- 60_exceptions.md R95: the debug view of a started engine shows every state element, so that two started engines with the
same view agree on all of them. Of an engine that has not started it shows `FAULT` alone (log 5). -/
def Obligations.DebugViewShowsEveryElement : Prop :=
  (∀ s : State, s.started = true → s.debugView = {
      fault := s.fault
      elements := some {
        clk := s.clk
        bc := s.bc
        tc := s.tc
        sr := s.sr
        sel := s.sel
        tonic := s.tonic
        bpm := s.bpm } })
    ∧ (∀ s t : State, s.started = true → t.started = true → (s.debugView = t.debugView ↔ s.SameElements t))
    ∧ ∀ s : State, s.started = false → s.debugView = { fault := s.fault, elements := none }

/-- 40_counters.md R53 and R55 as an invariant of the machine: whatever the host's next command is, unless it is a RESET, a
step keeps both closed forms of a started engine. A failed INIT leaves an engine that is not started (log 5). -/
def Obligations.StepKeepsTheClosedForms : Prop :=
  ∀ s t : State, s.ClosedForms → s.NextIsNotReset → step s = .next t → t.ClosedForms

/-- Both closed forms hold in the reset state, the result of an INIT (its configuration and seed are the model's choice,
log 3). -/
def Obligations.ClosedFormsHoldAtReset : Prop := State.reset.started = true ∧ State.reset.ClosedForms
end

