-- ==== Sys2Proof/Laws/Bits.lean ====
section
/-! SUPPORT. The bits of the bit helpers. -/

namespace Sys2Proof.Machine

theorem getLsbD_bitsOf (f : Nat → Bool) (n p : Nat) : (bitsOf f n).getLsbD p = (decide (p < n) && f p) := by
  induction n with
  | zero => simp [bitsOf]
  | succ n ih =>
    rw [bitsOf, BitVec.getLsbD_cons, ih]
    rcases Nat.lt_trichotomy p n with h | rfl | h
    · simp [h, Nat.ne_of_lt h, Nat.lt_succ_of_lt h]
    · simp
    · simp [Nat.ne_of_gt h, Nat.not_lt.mpr (Nat.le_of_lt h), Nat.not_lt.mpr (Nat.succ_le_of_lt h)]

/-- A toggle changes exactly the bits inside the vector that its condition names. -/
theorem getLsbD_toggleWhere {n : Nat} (f : Nat → Bool) (v : BitVec n) (p : Nat) :
    (toggleWhere f v).getLsbD p = (v.getLsbD p ^^ (decide (p < n) && f p)) := by
  rw [toggleWhere, BitVec.getLsbD_xor, getLsbD_bitsOf]

/-- Two toggles whose conditions agree inside the vector are one. -/
theorem toggleWhere_congr {n : Nat} {f g : Nat → Bool} (v : BitVec n) (h : ∀ p < n, f p = g p) :
    toggleWhere f v = toggleWhere g v := by
  apply BitVec.eq_of_getLsbD_eq
  intro p hp
  simp [getLsbD_toggleWhere, h p hp]

end Sys2Proof.Machine
end

