-- ==== Sys2Proof/Laws/Frequency.lean ====
section
/-! SUPPORT. The reference evaluation of the frequency lies within the tolerance of 44_note_mapper.md R69 (c), so the parameter
`FREQ_F64` of the model is a conforming function whatever its free value is. -/

namespace Sys2Proof.Machine

namespace F64

/-- Rounding to nearest is off by at most half. -/
theorem roundHalfEven_bounds (n d : Nat) (hd : 0 < d) :
    2 * (roundHalfEven n d * d) ≤ 2 * n + d ∧ 2 * n ≤ 2 * (roundHalfEven n d * d) + d := by
  have hn : n / d * d + n % d = n := Nat.div_add_mod' n d
  have hr : n % d < d := Nat.mod_lt n hd
  unfold roundHalfEven
  dsimp only
  split_ifs with h1 h2
  · constructor <;> omega
  · rw [Nat.add_mul, Nat.one_mul]
    constructor <;> omega
  · rcases Nat.mod_two_eq_zero_or_one (n / d) with h | h <;> rw [h]
    · rw [Nat.add_zero]
      constructor <;> omega
    · rw [Nat.add_mul, Nat.one_mul]
      constructor <;> omega

theorem le_roundHalfEven {n d k : Nat} (hd : 0 < d) (h : k * d ≤ n) : k ≤ roundHalfEven n d := by
  have hq : k ≤ n / d := (Nat.le_div_iff_mul_le hd).mpr h
  unfold roundHalfEven
  dsimp only
  split_ifs <;> omega

theorem roundHalfEven_le {n d k : Nat} (hd : 0 < d) (h : n ≤ k * d) : roundHalfEven n d ≤ k := by
  have hb := (roundHalfEven_bounds n d hd).1
  by_contra hlt
  have hk : (k + 1) * d ≤ roundHalfEven n d * d := Nat.mul_le_mul_right d (Nat.lt_of_not_le hlt)
  have hn : n / d * d + n % d = n := Nat.div_add_mod' n d
  have hq : n / d ≤ k := Nat.div_le_of_le_mul (by rw [Nat.mul_comm]; exact h)
  rw [Nat.add_mul, Nat.one_mul] at hk
  rcases Nat.lt_or_eq_of_le hq with hlt' | heq
  · have : roundHalfEven n d ≤ n / d + 1 := by
      unfold roundHalfEven
      dsimp only
      split_ifs <;> omega
    omega
  · rw [heq] at hn
    omega

theorem exponent_ofNat {code : Nat} (h : code < 2047 * 2 ^ 52) : exponent (BitVec.ofNat 64 code) = code / 2 ^ 52 := by
  simp only [exponent, BitVec.extractLsb'_toNat, BitVec.toNat_ofNat, Nat.shiftRight_eq_div_pow]
  omega

theorem fraction_ofNat (code : Nat) : fraction (BitVec.ofNat 64 code) = code % 2 ^ 52 := by
  simp only [fraction, BitVec.extractLsb'_toNat, BitVec.toNat_ofNat, Nat.shiftRight_zero]
  omega

/-- The magnitude of a code: the significand `m` in its binade. -/
theorem units_ofNat {b m : Nat} (h : b * 2 ^ 52 + m < 2047 * 2 ^ 52) (hm : m ≤ 2 ^ 53) (hb : b ≠ 0 → 2 ^ 52 ≤ m) :
    units (BitVec.ofNat 64 (b * 2 ^ 52 + m)) = m * 2 ^ b := by
  rw [units, exponent_ofNat h, fraction_ofNat]
  rcases Nat.lt_trichotomy m (2 ^ 52) with hlt | rfl | hgt
  · have hb0 : b = 0 := by
      by_contra hne
      exact absurd (hb hne) (Nat.not_le.mpr hlt)
    subst hb0
    rw [if_pos (by omega)]
    omega
  · rw [if_neg (by omega), show (b * 2 ^ 52 + 2 ^ 52) / 2 ^ 52 - 1 = b by omega,
      show (b * 2 ^ 52 + 2 ^ 52) % 2 ^ 52 = 0 by omega, Nat.add_zero]
  · rcases Nat.lt_or_eq_of_le hm with hlt | rfl
    · rw [if_neg (by omega), show (b * 2 ^ 52 + m) / 2 ^ 52 - 1 = b by omega,
        show 2 ^ 52 + (b * 2 ^ 52 + m) % 2 ^ 52 = m by omega]
    · rw [if_neg (by omega), show (b * 2 ^ 52 + 2 ^ 53) / 2 ^ 52 - 1 = b + 1 by omega,
        show (b * 2 ^ 52 + 2 ^ 53) % 2 ^ 52 = 0 by omega, Nat.add_zero, Nat.pow_succ]
      omega

theorem sign_ofNat {code : Nat} (h : code < 2047 * 2 ^ 52) : sign (BitVec.ofNat 64 code) = false := by
  have hc : code < 2 ^ 63 := by omega
  rw [sign, BitVec.getLsbD_ofNat, Nat.testBit_lt_two_pow hc, Bool.and_false]

/-- The binade and the significand that `round` chooses for a quotient. -/
theorem significand_bounds (n d : Nat) (hd : 0 < d) :
    let b := Nat.log2 (n / d) - 52
    let m := roundHalfEven n (d * 2 ^ b)
    m ≤ 2 ^ 53 ∧ (b ≠ 0 → 2 ^ 52 ≤ m ∧ 2 ^ 52 * (d * 2 ^ b) ≤ n) := by
  intro b m
  have hD : 0 < d * 2 ^ b := Nat.mul_pos hd (Nat.two_pow_pos b)
  constructor
  · apply roundHalfEven_le hD
    have hq : n / d < 2 ^ (b + 53) := by
      by_cases h0 : n / d = 0
      · rw [h0]
        exact Nat.two_pow_pos _
      · refine Nat.lt_of_lt_of_le (Nat.lt_log2_self (n := n / d)) (Nat.pow_le_pow_right (by omega) ?_)
        omega
    have hlt : n < 2 ^ (b + 53) * d := (Nat.div_lt_iff_lt_mul hd).mp hq
    rw [Nat.pow_add] at hlt
    calc n ≤ 2 ^ b * 2 ^ 53 * d := hlt.le
      _ = 2 ^ 53 * (d * 2 ^ b) := by ring
  · intro hb
    have hb' : Nat.log2 (n / d) - 52 ≠ 0 := hb
    have h0 : n / d ≠ 0 := by
      intro h
      rw [h] at hb'
      simp at hb'
    have hq : 2 ^ (b + 52) ≤ n / d := by
      have := Nat.log2_self_le h0
      rwa [show b + 52 = Nat.log2 (n / d) by omega]
    have hle : 2 ^ (b + 52) * d ≤ n := (Nat.le_div_iff_mul_le hd).mp hq
    have hle' : 2 ^ 52 * (d * 2 ^ b) ≤ n := by
      calc 2 ^ 52 * (d * 2 ^ b) = 2 ^ (b + 52) * d := by rw [Nat.pow_add]; ring
        _ ≤ n := hle
    exact ⟨le_roundHalfEven hD hle', hle'⟩

/-- A rounding that stays finite is off by at most half a unit or a relative 2^-53, and has the sign bit clear. -/
theorem round_finite {n d : Nat} (hd : 0 < d) (hf : isFinite (round n d) = true) :
    sign (round n d) = false ∧ ∃ e : Nat, (e ≤ d ∨ 2 ^ 52 * e ≤ n)
      ∧ 2 * (units (round n d) * d) ≤ 2 * n + e ∧ 2 * n ≤ 2 * (units (round n d) * d) + e := by
  obtain ⟨hm, hb⟩ := significand_bounds n d hd
  unfold round at hf ⊢
  dsimp only at hf ⊢ hm hb
  split_ifs at hf ⊢ with hc
  · refine ⟨sign_ofNat hc, d * 2 ^ (Nat.log2 (n / d) - 52), ?_, ?_⟩
    · by_cases h0 : Nat.log2 (n / d) - 52 = 0
      · left
        rw [h0]
        omega
      · exact .inr (hb h0).2
    · rw [units_ofNat hc hm fun h => (hb h).1]
      have hD : 0 < d * 2 ^ (Nat.log2 (n / d) - 52) := Nat.mul_pos hd (Nat.two_pow_pos _)
      have := roundHalfEven_bounds n _ hD
      rwa [show roundHalfEven n (d * 2 ^ (Nat.log2 (n / d) - 52)) * 2 ^ (Nat.log2 (n / d) - 52) * d
        = roundHalfEven n (d * 2 ^ (Nat.log2 (n / d) - 52)) * (d * 2 ^ (Nat.log2 (n / d) - 52)) by ring]
  · exact absurd hf (by decide)

/-- A rounding that overflows had at least DBL_MAX to round. -/
theorem round_infinite {n d : Nat} (hd : 0 < d) (hf : isFinite (round n d) = false) : maxFiniteUnits * d ≤ n := by
  obtain ⟨hm, hb⟩ := significand_bounds n d hd
  unfold round at hf
  dsimp only at hf hm hb
  generalize Nat.log2 (n / d) - 52 = b at hf hm hb
  split_ifs at hf with hc
  · rw [isFinite, exponent_ofNat hc] at hf
    simp only [bne_eq_false_iff_eq] at hf
    omega
  · have hb45 : 2045 ≤ b := by omega
    have hDpos : 0 < d * 2 ^ b := Nat.mul_pos hd (Nat.two_pow_pos _)
    rcases Nat.lt_or_eq_of_le hb45 with hlt | rfl
    · obtain ⟨c, rfl⟩ : ∃ c, b = 2045 + (c + 1) := ⟨b - 2046, by omega⟩
      have h1 := (hb (by omega)).2
      rw [maxFiniteUnits]
      rw [Nat.pow_add 2 2045 (c + 1)] at h1
      generalize 2 ^ 2045 = k at h1 ⊢
      have h2 : 2 ≤ 2 ^ (c + 1) := Nat.le_pow (Nat.succ_pos c)
      calc (2 ^ 53 - 1) * k * d ≤ 2 ^ 53 * k * d := Nat.mul_le_mul_right d (Nat.mul_le_mul_right k (by omega))
        _ = 2 ^ 52 * (d * (k * 2)) := by ring
        _ ≤ 2 ^ 52 * (d * (k * 2 ^ (c + 1))) := Nat.mul_le_mul_left _ (Nat.mul_le_mul_left _ (Nat.mul_le_mul_left _ h2))
        _ ≤ n := h1
    · have hm53 : roundHalfEven n (d * 2 ^ 2045) = 2 ^ 53 := by omega
      have h := (roundHalfEven_bounds n _ hDpos).1
      rw [hm53] at h
      have : (2 ^ 53 - 1) * (d * 2 ^ 2045) ≤ n := by
        generalize d * 2 ^ 2045 = D at h hDpos
        omega
      calc maxFiniteUnits * d = (2 ^ 53 - 1) * (d * 2 ^ 2045) := by
            rw [maxFiniteUnits]
            generalize 2 ^ 2045 = k
            ring
        _ ≤ n := this

/-- A finite magnitude is at most DBL_MAX. -/
theorem units_le_maxFiniteUnits {t : Binary64} (h : isFinite t = true) : units t ≤ maxFiniteUnits := by
  have he : exponent t < 2 ^ 11 := BitVec.isLt _
  have hne : exponent t ≠ 2047 := by simpa [isFinite] using h
  have hf : fraction t < 2 ^ 52 := BitVec.isLt _
  rw [units, maxFiniteUnits]
  split_ifs
  · exact (show fraction t ≤ 2 ^ 53 - 1 by omega).trans (Nat.le_mul_of_pos_right _ (Nat.two_pow_pos _))
  · exact Nat.mul_le_mul (by omega) (Nat.pow_le_pow_right (by omega) (by omega))

end F64

/-! ρ^h as a real number. -/

@[simp] theorem rhoNum_zero (ratio : SemitoneRatio) : rhoNum ratio 0 = 1 := by cases ratio <;> rfl

@[simp] theorem rhoDen_zero (ratio : SemitoneRatio) : rhoDen ratio 0 = 1 := by cases ratio <;> rfl

/-- The exact ρ^h (00_scope.md R9), as a real. -/
noncomputable def rhoPower (ratio : SemitoneRatio) (h : HalfTones) : ℝ :=
  ((rhoNum ratio h : ℝ) / rhoDen ratio h) ^ ((rhoDegree ratio : ℝ)⁻¹)

theorem rhoDegree_pos (ratio : SemitoneRatio) : rhoDegree ratio ≠ 0 := by cases ratio <;> decide

theorem rhoNum_pos (ratio : SemitoneRatio) (h : HalfTones) : 0 < rhoNum ratio h := by
  cases ratio <;> exact Nat.pow_pos (by omega)

theorem rhoDen_pos (ratio : SemitoneRatio) (h : HalfTones) : 0 < rhoDen ratio h := by
  cases ratio
  · exact Nat.one_pos
  · exact Nat.pow_pos (by omega)

theorem rhoPower_nonneg (ratio : SemitoneRatio) (h : HalfTones) : 0 ≤ rhoPower ratio h :=
  Real.rpow_nonneg (by positivity) _

theorem rhoPower_pow (ratio : SemitoneRatio) (h : HalfTones) :
    rhoPower ratio h ^ rhoDegree ratio * rhoDen ratio h = rhoNum ratio h := by
  have hd : (rhoDen ratio h : ℝ) ≠ 0 := by exact_mod_cast (rhoDen_pos ratio h).ne'
  rw [rhoPower, Real.rpow_inv_natCast_pow (by positivity) (rhoDegree_pos ratio), div_mul_cancel₀ _ hd]

theorem timesRhoLe_iff (ratio : SemitoneRatio) (h : HalfTones) (a b : Nat) :
    timesRhoLe ratio h a b = true ↔ (a : ℝ) * rhoPower ratio h ≤ b := by
  have hd : (0 : ℝ) < rhoDen ratio h := by exact_mod_cast rhoDen_pos ratio h
  rw [timesRhoLe, decide_eq_true_iff, ← Nat.cast_le (α := ℝ)]
  push_cast
  rw [← rhoPower_pow, ← mul_assoc, ← mul_pow, mul_le_mul_iff_left₀ hd,
    pow_le_pow_iff_left₀ (mul_nonneg (Nat.cast_nonneg a) (rhoPower_nonneg ratio h)) (Nat.cast_nonneg b)
      (rhoDegree_pos ratio)]

theorem leTimesRho_iff (ratio : SemitoneRatio) (h : HalfTones) (b a : Nat) :
    leTimesRho ratio h b a = true ↔ (b : ℝ) ≤ a * rhoPower ratio h := by
  have hd : (0 : ℝ) < rhoDen ratio h := by exact_mod_cast rhoDen_pos ratio h
  rw [leTimesRho, decide_eq_true_iff, ← Nat.cast_le (α := ℝ)]
  push_cast
  rw [← rhoPower_pow, ← mul_assoc, ← mul_pow, mul_le_mul_iff_left₀ hd,
    pow_le_pow_iff_left₀ (Nat.cast_nonneg b) (mul_nonneg (Nat.cast_nonneg a) (rhoPower_nonneg ratio h))
      (rhoDegree_pos ratio)]

/-- The binary64 powers of ρ that the reference evaluation multiplies with are within 2^-48 of ρ^h. -/
theorem pow_rhoF64_bounds (ratio : SemitoneRatio) (h : HalfTones) (hh : h.toNat ≤ 24) :
    timesRhoLe ratio h ((2 ^ 48 - 1) * F64.oneUnits) (2 ^ 48 * F64.units (F64.pow (rhoF64 ratio) h.toNat)) = true
      ∧ leTimesRho ratio h (2 ^ 48 * F64.units (F64.pow (rhoF64 ratio) h.toNat)) ((2 ^ 48 + 1) * F64.oneUnits) = true := by
  have key : ∀ k : Fin 25, ∀ r ∈ [SemitoneRatio.exact, .legacy],
      timesRhoLe r (BitVec.ofNat 5 k) ((2 ^ 48 - 1) * F64.oneUnits) (2 ^ 48 * F64.units (F64.pow (rhoF64 r) k)) = true
        ∧ leTimesRho r (BitVec.ofNat 5 k) (2 ^ 48 * F64.units (F64.pow (rhoF64 r) k)) ((2 ^ 48 + 1) * F64.oneUnits)
          = true := by
    decide +kernel
  have hk := key ⟨h.toNat, by omega⟩ ratio (by cases ratio <;> simp)
  rwa [BitVec.ofNat_toNat, BitVec.setWidth_eq] at hk

/-- Where t·ρ^h is in the normal range, the reference evaluation, with DBL_MAX in place of its overflow, is within the
tolerance of R69 (c). -/
theorem conformingFrequency_within (ratio : SemitoneRatio) (t : Binary64) (h : HalfTones) (hh : h.toNat ≤ 24)
    (hn : reachesNormal ratio t h = true) (ho : overflows ratio t h = false) :
    withinTolerance ratio t h (conformingFrequency ratio t h) = true := by
  obtain ⟨hlo, hhi⟩ := pow_rhoF64_bounds ratio h hh
  rw [timesRhoLe_iff] at hlo
  rw [leTimesRho_iff] at hhi
  rw [reachesNormal, leTimesRho_iff] at hn
  rw [overflows, Bool.not_eq_false', timesRhoLe_iff] at ho
  -- `U` units of the binary64 power, `T` units of the tonic, `v` the exact value, `D` units in 1
  have hDnat : 0 < F64.oneUnits := Nat.two_pow_pos 1074
  have hfin := @F64.round_finite (F64.units t * F64.units (F64.pow (rhoF64 ratio) h.toNat)) F64.oneUnits hDnat
  have hinf := @F64.round_infinite (F64.units t * F64.units (F64.pow (rhoF64 ratio) h.toNat)) F64.oneUnits hDnat
  rw [withinTolerance, conformingFrequency, referenceFrequency, F64.mul]
  generalize F64.units (F64.pow (rhoF64 ratio) h.toNat) = U at *
  generalize F64.oneUnits = D at hDnat hfin hinf hlo hhi ⊢
  generalize F64.round (F64.units t * U) D = r at *
  generalize hT : F64.units t = T at *
  have hv : 0 ≤ (T : ℝ) * rhoPower ratio h := mul_nonneg (Nat.cast_nonneg T) (rhoPower_nonneg ratio h)
  push_cast at hlo hhi
  have hDr : (0 : ℝ) < D := by exact_mod_cast hDnat
  have hTr : (0 : ℝ) ≤ T := Nat.cast_nonneg T
  have hmin : (2 : ℝ) ^ 52 ≤ T * rhoPower ratio h := by
    rw [F64.minNormalUnits] at hn
    exact_mod_cast hn
  have hlo' : ((2 : ℝ) ^ 48 - 1) * (T * rhoPower ratio h * D) ≤ 2 ^ 48 * (T * U) := by
    have := mul_le_mul_of_nonneg_left hlo hTr
    norm_num at this ⊢
    linarith
  have hhi' : (2 : ℝ) ^ 48 * (T * U) ≤ (2 ^ 48 + 1) * (T * rhoPower ratio h * D) := by
    have := mul_le_mul_of_nonneg_left hhi hTr
    norm_num at this ⊢
    linarith
  have hgoal : ∀ q : Binary64, F64.isFinite q = true → F64.sign q = false →
      ((2 : ℝ) ^ 45 - 1) * (T * rhoPower ratio h) ≤ 2 ^ 45 * F64.units q →
      (2 : ℝ) ^ 45 * F64.units q ≤ (2 ^ 45 + 1) * (T * rhoPower ratio h) →
      (F64.legalTonic q && leTimesRho ratio h (2 ^ 45 * F64.units q) ((2 ^ 45 + 1) * T)
        && timesRhoLe ratio h ((2 ^ 45 - 1) * T) (2 ^ 45 * F64.units q)) = true := by
    intro q hq hs h1 h2
    have hpos : (0 : ℝ) < F64.units q := by
      norm_num at h1 hmin
      linarith
    have hne : F64.units q ≠ 0 := by exact_mod_cast hpos.ne'
    rw [Bool.and_eq_true, Bool.and_eq_true, leTimesRho_iff, timesRhoLe_iff]
    push_cast
    rw [mul_assoc, mul_assoc]
    norm_num at h1 h2
    exact ⟨⟨by simp [F64.legalTonic, F64.isPositive, hq, hs, hne], h2⟩, h1⟩
  generalize (T : ℝ) * rhoPower ratio h = v at *
  cases hf : F64.isFinite r with
  | true =>
    rw [if_pos rfl]
    obtain ⟨hs, e, he, h1, h2⟩ := hfin hf
    have h1' : 2 * ((F64.units r : ℝ) * D) ≤ 2 * (T * U) + e := by exact_mod_cast h1
    have h2' : 2 * ((T : ℝ) * U) ≤ 2 * (F64.units r * D) + e := by exact_mod_cast h2
    have hvD : (2 : ℝ) ^ 52 * D ≤ v * D := mul_le_mul_of_nonneg_right hmin hDr.le
    have heR : (2 : ℝ) ^ 51 * e ≤ v * D := by
      rcases he with he | he
      · have he' : (e : ℝ) ≤ D := by exact_mod_cast he
        norm_num at hvD ⊢
        linarith
      · have he' : (2 : ℝ) ^ 52 * e ≤ T * U := by exact_mod_cast he
        norm_num at he' hhi' hvD ⊢
        linarith
    refine hgoal r hf hs (le_of_mul_le_mul_right ?_ hDr) (le_of_mul_le_mul_right ?_ hDr)
    · norm_num at hlo' hhi' heR ⊢
      linarith
    · norm_num at hlo' hhi' heR ⊢
      linarith
  | false =>
    rw [if_neg (by decide)]
    have hM : (F64.maxFiniteUnits : ℝ) * D ≤ T * U := by exact_mod_cast hinf hf
    have hmaxUnits : F64.units F64.maxFinite = F64.maxFiniteUnits := by decide +kernel
    have hvD : v * D ≤ F64.maxFiniteUnits * D := mul_le_mul_of_nonneg_right ho hDr.le
    refine hgoal _ (by decide) (by decide) ?_ ?_ <;> rw [hmaxUnits] <;>
      generalize (F64.maxFiniteUnits : ℝ) = M at *
    · norm_num
      linarith
    · refine le_of_mul_le_mul_right ?_ hDr
      norm_num at hhi' ⊢
      linarith

end Sys2Proof.Machine
end

