-- ==== Sys2Proof/Laws/Sliders.lean ====
section
/-! SUPPORT. Sliders, one value per slider, and the snapshot. -/

namespace Sys2Proof

@[simp] theorem Slider.ofId_id (i : Slider) : Slider.ofId i.id = i := by cases i <;> rfl

@[simp] theorem Slider.id_ofId (n : BitVec 3) : (Slider.ofId n).id = n := by revert n; decide

theorem Slider.mem_all (i : Slider) : i ∈ Slider.all := by cases i <;> decide

@[simp] theorem PerSlider.get_set_same {α : Type} (v : PerSlider α) (i : Slider) (t : α) : (v.set i t).get i = t := by
  cases i <;> rfl

theorem PerSlider.get_set {α : Type} (v : PerSlider α) (i j : Slider) (t : α) :
    (v.set i t).get j = if j = i then t else v.get j := by
  cases i <;> cases j <;> rfl

@[simp] theorem PerSlider.set_get {α : Type} (v : PerSlider α) (i : Slider) : v.set i (v.get i) = v := by
  cases i <;> rfl

theorem PerSlider.ext_get {α : Type} {u v : PerSlider α} (h : ∀ i, u.get i = v.get i) : u = v := by
  cases u
  cases v
  exact PerSlider.mk.injEq .. ▸ ⟨h .a, h .b, h .c, h .d, h .w, h .x, h .y, h .z⟩

namespace Machine

/-- SLIDER_OUTPUT has a value exactly up to selector 39. -/
theorem sliderOutput_isSome (s : State) (v : Selector) : (sliderOutput s v).isSome = decide (v.toNat ≤ 39) := by
  unfold sliderOutput
  dsimp only
  split_ifs <;> simp <;> omega

/-- The snapshot is the eight slider outputs, and exists when each of them does. -/
theorem snapshot_eq_some_iff (s : State) (out : PerSlider Bool) :
    snapshot s = some out ↔ ∀ i : Slider, sliderOutput s (s.sel.get i) = some (out.get i) := by
  constructor
  · intro h i
    simp only [snapshot, Option.bind_eq_bind, Option.bind_eq_some_iff, Option.pure_def, Option.some.injEq] at h
    obtain ⟨a, ha, b, hb, c, hc, d, hd, w, hw, x, hx, y, hy, z, hz, rfl⟩ := h
    cases i <;> assumption
  · intro h
    have ha := h .a
    have hb := h .b
    have hc := h .c
    have hd := h .d
    have hw := h .w
    have hx := h .x
    have hy := h .y
    have hz := h .z
    simp only [PerSlider.get] at ha hb hc hd hw hx hy hz
    simp [snapshot, ha, hb, hc, hd, hw, hx, hy, hz]

/-- With every stored selector at most 39 there is a snapshot. -/
theorem exists_snapshot (s : State) (h : ∀ i : Slider, (s.sel.get i).toNat ≤ 39) : ∃ out, snapshot s = some out := by
  have hex : ∀ i : Slider, ∃ b, sliderOutput s (s.sel.get i) = some b := fun i =>
    Option.isSome_iff_exists.mp (by simpa [sliderOutput_isSome] using h i)
  choose f hf using hex
  refine ⟨⟨f .a, f .b, f .c, f .d, f .w, f .x, f .y, f .z⟩, (snapshot_eq_some_iff s _).mpr fun i => ?_⟩
  rw [hf i]
  cases i <;> rfl

end Machine

end Sys2Proof
end

