-- ==== Sys2Proof/Laws/State.lean ====
section
/-! SUPPORT. What each state update does to each field: one lemma per field per update, true by `rfl`, so that no later proof
unfolds a record update. -/

namespace Sys2Proof.Machine

variable (s : State)

@[simp] theorem respond_clk (r : Response) : (respond r s).clk = s.clk := rfl
@[simp] theorem respond_bc (r : Response) : (respond r s).bc = s.bc := rfl
@[simp] theorem respond_tc (r : Response) : (respond r s).tc = s.tc := rfl
@[simp] theorem respond_sr (r : Response) : (respond r s).sr = s.sr := rfl
@[simp] theorem respond_sel (r : Response) : (respond r s).sel = s.sel := rfl
@[simp] theorem respond_tonic (r : Response) : (respond r s).tonic = s.tonic := rfl
@[simp] theorem respond_bpm (r : Response) : (respond r s).bpm = s.bpm := rfl
@[simp] theorem respond_fault (r : Response) : (respond r s).fault = s.fault := rfl
@[simp] theorem respond_started (r : Response) : (respond r s).started = s.started := rfl
@[simp] theorem respond_ports (r : Response) : (respond r s).ports = s.ports := rfl
@[simp] theorem respond_responses (r : Response) : (respond r s).responses = r :: s.responses := rfl
@[simp] theorem respond_pending (r : Response) : (respond r s).pending = s.pending := rfl
@[simp] theorem respond_initFailures (r : Response) : (respond r s).initFailures = s.initFailures := rfl

@[simp] theorem respondStatus_clk (c : BitVec 4) : (respondStatus c s).clk = s.clk := rfl
@[simp] theorem respondStatus_bc (c : BitVec 4) : (respondStatus c s).bc = s.bc := rfl
@[simp] theorem respondStatus_tc (c : BitVec 4) : (respondStatus c s).tc = s.tc := rfl
@[simp] theorem respondStatus_sr (c : BitVec 4) : (respondStatus c s).sr = s.sr := rfl
@[simp] theorem respondStatus_sel (c : BitVec 4) : (respondStatus c s).sel = s.sel := rfl
@[simp] theorem respondStatus_tonic (c : BitVec 4) : (respondStatus c s).tonic = s.tonic := rfl
@[simp] theorem respondStatus_bpm (c : BitVec 4) : (respondStatus c s).bpm = s.bpm := rfl
@[simp] theorem respondStatus_fault (c : BitVec 4) : (respondStatus c s).fault = s.fault := rfl
@[simp] theorem respondStatus_started (c : BitVec 4) : (respondStatus c s).started = s.started := rfl
@[simp] theorem respondStatus_ports (c : BitVec 4) : (respondStatus c s).ports = s.ports := rfl
@[simp] theorem respondStatus_responses (c : BitVec 4) : (respondStatus c s).responses = ⟨c, 0, 0⟩ :: s.responses := rfl
@[simp] theorem respondStatus_pending (c : BitVec 4) : (respondStatus c s).pending = s.pending := rfl
@[simp] theorem respondStatus_initFailures (c : BitVec 4) : (respondStatus c s).initFailures = s.initFailures := rfl

@[simp] theorem refuse_clk : (refuse s).clk = s.clk := rfl
@[simp] theorem refuse_bc : (refuse s).bc = s.bc := rfl
@[simp] theorem refuse_tc : (refuse s).tc = s.tc := rfl
@[simp] theorem refuse_sr : (refuse s).sr = s.sr := rfl
@[simp] theorem refuse_sel : (refuse s).sel = s.sel := rfl
@[simp] theorem refuse_tonic : (refuse s).tonic = s.tonic := rfl
@[simp] theorem refuse_bpm : (refuse s).bpm = s.bpm := rfl
@[simp] theorem refuse_fault : (refuse s).fault = s.fault := rfl
@[simp] theorem refuse_started : (refuse s).started = s.started := rfl
@[simp] theorem refuse_ports : (refuse s).ports = s.ports := rfl
@[simp] theorem refuse_responses : (refuse s).responses = ⟨statusFaulted, 0, 0⟩ :: s.responses := rfl
@[simp] theorem refuse_pending : (refuse s).pending = s.pending := rfl
@[simp] theorem refuse_initFailures : (refuse s).initFailures = s.initFailures := rfl

@[simp] theorem raiseError_clk (e : ErrorInfo) : (raiseError e s).clk = s.clk := rfl
@[simp] theorem raiseError_bc (e : ErrorInfo) : (raiseError e s).bc = s.bc := rfl
@[simp] theorem raiseError_tc (e : ErrorInfo) : (raiseError e s).tc = s.tc := rfl
@[simp] theorem raiseError_sr (e : ErrorInfo) : (raiseError e s).sr = s.sr := rfl
@[simp] theorem raiseError_sel (e : ErrorInfo) : (raiseError e s).sel = s.sel := rfl
@[simp] theorem raiseError_tonic (e : ErrorInfo) : (raiseError e s).tonic = s.tonic := rfl
@[simp] theorem raiseError_bpm (e : ErrorInfo) : (raiseError e s).bpm = s.bpm := rfl
@[simp] theorem raiseError_fault (e : ErrorInfo) : (raiseError e s).fault = some e := rfl
@[simp] theorem raiseError_started (e : ErrorInfo) : (raiseError e s).started = s.started := rfl
@[simp] theorem raiseError_ports (e : ErrorInfo) : (raiseError e s).ports = s.ports := rfl
@[simp] theorem raiseError_responses (e : ErrorInfo) : (raiseError e s).responses = ⟨e.code, 0, 0⟩ :: s.responses := rfl
@[simp] theorem raiseError_pending (e : ErrorInfo) : (raiseError e s).pending = s.pending := rfl
@[simp] theorem raiseError_initFailures (e : ErrorInfo) : (raiseError e s).initFailures = s.initFailures := rfl

@[simp] theorem loseElements_clk : (loseElements s).clk = Config.lostClk s.initFailures := rfl
@[simp] theorem loseElements_bc : (loseElements s).bc = Config.lostBc s.initFailures := rfl
@[simp] theorem loseElements_tc : (loseElements s).tc = Config.lostTc s.initFailures := rfl
@[simp] theorem loseElements_sr : (loseElements s).sr = Config.lostSr s.initFailures := rfl
@[simp] theorem loseElements_tonic : (loseElements s).tonic = Config.lostTonic s.initFailures := rfl
@[simp] theorem loseElements_bpm : (loseElements s).bpm = Config.lostBpm s.initFailures := rfl
@[simp] theorem loseElements_fault : (loseElements s).fault = s.fault := rfl
@[simp] theorem loseElements_started : (loseElements s).started = false := rfl
@[simp] theorem loseElements_ports : (loseElements s).ports = s.ports := rfl
@[simp] theorem loseElements_responses : (loseElements s).responses = s.responses := rfl
@[simp] theorem loseElements_pending : (loseElements s).pending = s.pending := rfl
@[simp] theorem loseElements_initFailures : (loseElements s).initFailures = s.initFailures + 1 := rfl

@[simp] theorem clockPulse_clk (p : Params) : (clockPulse p s).clk = clockNext p.clockWidth s.clk := rfl
@[simp] theorem clockPulse_bc (p : Params) : (clockPulse p s).bc = s.bc := rfl
@[simp] theorem clockPulse_tc (p : Params) : (clockPulse p s).tc = s.tc := rfl
@[simp] theorem clockPulse_sr (p : Params) : (clockPulse p s).sr = s.sr := rfl
@[simp] theorem clockPulse_sel (p : Params) : (clockPulse p s).sel = s.sel := rfl
@[simp] theorem clockPulse_tonic (p : Params) : (clockPulse p s).tonic = s.tonic := rfl
@[simp] theorem clockPulse_bpm (p : Params) : (clockPulse p s).bpm = s.bpm := rfl
@[simp] theorem clockPulse_fault (p : Params) : (clockPulse p s).fault = s.fault := rfl
@[simp] theorem clockPulse_started (p : Params) : (clockPulse p s).started = s.started := rfl
@[simp] theorem clockPulse_ports (p : Params) : (clockPulse p s).ports = s.ports := rfl
@[simp] theorem clockPulse_responses (p : Params) : (clockPulse p s).responses = s.responses := rfl
@[simp] theorem clockPulse_pending (p : Params) : (clockPulse p s).pending = s.pending := rfl
@[simp] theorem clockPulse_initFailures (p : Params) : (clockPulse p s).initFailures = s.initFailures := rfl

@[simp] theorem clockReset_clk : (clockReset s).clk = 0 := rfl
@[simp] theorem clockReset_bc : (clockReset s).bc = s.bc := rfl
@[simp] theorem clockReset_tc : (clockReset s).tc = s.tc := rfl
@[simp] theorem clockReset_sr : (clockReset s).sr = s.sr := rfl
@[simp] theorem clockReset_sel : (clockReset s).sel = s.sel := rfl
@[simp] theorem clockReset_tonic : (clockReset s).tonic = s.tonic := rfl
@[simp] theorem clockReset_bpm : (clockReset s).bpm = s.bpm := rfl
@[simp] theorem clockReset_fault : (clockReset s).fault = s.fault := rfl
@[simp] theorem clockReset_started : (clockReset s).started = s.started := rfl
@[simp] theorem clockReset_ports : (clockReset s).ports = s.ports := rfl
@[simp] theorem clockReset_responses : (clockReset s).responses = s.responses := rfl
@[simp] theorem clockReset_pending : (clockReset s).pending = s.pending := rfl
@[simp] theorem clockReset_initFailures : (clockReset s).initFailures = s.initFailures := rfl

@[simp] theorem bcAdvance_clk : (bcAdvance s).clk = s.clk := rfl
@[simp] theorem bcAdvance_bc : (bcAdvance s).bc = bcNext s.clk s.bc := rfl
@[simp] theorem bcAdvance_tc : (bcAdvance s).tc = s.tc := rfl
@[simp] theorem bcAdvance_sr : (bcAdvance s).sr = s.sr := rfl
@[simp] theorem bcAdvance_sel : (bcAdvance s).sel = s.sel := rfl
@[simp] theorem bcAdvance_tonic : (bcAdvance s).tonic = s.tonic := rfl
@[simp] theorem bcAdvance_bpm : (bcAdvance s).bpm = s.bpm := rfl
@[simp] theorem bcAdvance_fault : (bcAdvance s).fault = s.fault := rfl
@[simp] theorem bcAdvance_started : (bcAdvance s).started = s.started := rfl
@[simp] theorem bcAdvance_ports : (bcAdvance s).ports = s.ports := rfl
@[simp] theorem bcAdvance_responses : (bcAdvance s).responses = s.responses := rfl
@[simp] theorem bcAdvance_pending : (bcAdvance s).pending = s.pending := rfl
@[simp] theorem bcAdvance_initFailures : (bcAdvance s).initFailures = s.initFailures := rfl

@[simp] theorem tcAdvance_clk : (tcAdvance s).clk = s.clk := rfl
@[simp] theorem tcAdvance_bc : (tcAdvance s).bc = s.bc := rfl
@[simp] theorem tcAdvance_tc : (tcAdvance s).tc = tcNext s.clk s.tc := rfl
@[simp] theorem tcAdvance_sr : (tcAdvance s).sr = s.sr := rfl
@[simp] theorem tcAdvance_sel : (tcAdvance s).sel = s.sel := rfl
@[simp] theorem tcAdvance_tonic : (tcAdvance s).tonic = s.tonic := rfl
@[simp] theorem tcAdvance_bpm : (tcAdvance s).bpm = s.bpm := rfl
@[simp] theorem tcAdvance_fault : (tcAdvance s).fault = s.fault := rfl
@[simp] theorem tcAdvance_started : (tcAdvance s).started = s.started := rfl
@[simp] theorem tcAdvance_ports : (tcAdvance s).ports = s.ports := rfl
@[simp] theorem tcAdvance_responses : (tcAdvance s).responses = s.responses := rfl
@[simp] theorem tcAdvance_pending : (tcAdvance s).pending = s.pending := rfl
@[simp] theorem tcAdvance_initFailures : (tcAdvance s).initFailures = s.initFailures := rfl

@[simp] theorem srAdvance_clk (b : Bool) : (srAdvance b s).clk = s.clk := rfl
@[simp] theorem srAdvance_bc (b : Bool) : (srAdvance b s).bc = s.bc := rfl
@[simp] theorem srAdvance_tc (b : Bool) : (srAdvance b s).tc = s.tc := rfl
@[simp] theorem srAdvance_sr (b : Bool) : (srAdvance b s).sr = srPush b s.sr := rfl
@[simp] theorem srAdvance_sel (b : Bool) : (srAdvance b s).sel = s.sel := rfl
@[simp] theorem srAdvance_tonic (b : Bool) : (srAdvance b s).tonic = s.tonic := rfl
@[simp] theorem srAdvance_bpm (b : Bool) : (srAdvance b s).bpm = s.bpm := rfl
@[simp] theorem srAdvance_fault (b : Bool) : (srAdvance b s).fault = s.fault := rfl
@[simp] theorem srAdvance_started (b : Bool) : (srAdvance b s).started = s.started := rfl
@[simp] theorem srAdvance_ports (b : Bool) : (srAdvance b s).ports = s.ports := rfl
@[simp] theorem srAdvance_responses (b : Bool) : (srAdvance b s).responses = s.responses := rfl
@[simp] theorem srAdvance_pending (b : Bool) : (srAdvance b s).pending = s.pending := rfl
@[simp] theorem srAdvance_initFailures (b : Bool) : (srAdvance b s).initFailures = s.initFailures := rfl

@[simp] theorem srLoad_clk (seed : Stages) : (srLoad seed s).clk = s.clk := rfl
@[simp] theorem srLoad_bc (seed : Stages) : (srLoad seed s).bc = s.bc := rfl
@[simp] theorem srLoad_tc (seed : Stages) : (srLoad seed s).tc = s.tc := rfl
@[simp] theorem srLoad_sr (seed : Stages) : (srLoad seed s).sr = seed := rfl
@[simp] theorem srLoad_sel (seed : Stages) : (srLoad seed s).sel = s.sel := rfl
@[simp] theorem srLoad_tonic (seed : Stages) : (srLoad seed s).tonic = s.tonic := rfl
@[simp] theorem srLoad_bpm (seed : Stages) : (srLoad seed s).bpm = s.bpm := rfl
@[simp] theorem srLoad_fault (seed : Stages) : (srLoad seed s).fault = s.fault := rfl
@[simp] theorem srLoad_started (seed : Stages) : (srLoad seed s).started = s.started := rfl
@[simp] theorem srLoad_ports (seed : Stages) : (srLoad seed s).ports = s.ports := rfl
@[simp] theorem srLoad_responses (seed : Stages) : (srLoad seed s).responses = s.responses := rfl
@[simp] theorem srLoad_pending (seed : Stages) : (srLoad seed s).pending = s.pending := rfl
@[simp] theorem srLoad_initFailures (seed : Stages) : (srLoad seed s).initFailures = s.initFailures := rfl

@[simp] theorem loadConfig_clk (cfg : Ports) : (loadConfig cfg s).clk = 0 := rfl
@[simp] theorem loadConfig_bc (cfg : Ports) : (loadConfig cfg s).bc = 0 := rfl
@[simp] theorem loadConfig_tc (cfg : Ports) : (loadConfig cfg s).tc = 0 := rfl
@[simp] theorem loadConfig_sr (cfg : Ports) : (loadConfig cfg s).sr = cfg.seedIn := rfl
@[simp] theorem loadConfig_sel (cfg : Ports) : (loadConfig cfg s).sel = cfg.selIn := rfl
@[simp] theorem loadConfig_tonic (cfg : Ports) : (loadConfig cfg s).tonic = cfg.tonicIn := rfl
@[simp] theorem loadConfig_bpm (cfg : Ports) : (loadConfig cfg s).bpm = cfg.bpmIn := rfl
@[simp] theorem loadConfig_fault (cfg : Ports) : (loadConfig cfg s).fault = none := rfl
@[simp] theorem loadConfig_started (cfg : Ports) : (loadConfig cfg s).started = true := rfl
@[simp] theorem loadConfig_ports (cfg : Ports) : (loadConfig cfg s).ports = s.ports := rfl
@[simp] theorem loadConfig_responses (cfg : Ports) : (loadConfig cfg s).responses = s.responses := rfl
@[simp] theorem loadConfig_pending (cfg : Ports) : (loadConfig cfg s).pending = s.pending := rfl
@[simp] theorem loadConfig_initFailures (cfg : Ports) : (loadConfig cfg s).initFailures = s.initFailures := rfl

@[simp] theorem accept_clk (r : Request) (rest : List Request) : (accept r rest s).clk = s.clk := rfl
@[simp] theorem accept_bc (r : Request) (rest : List Request) : (accept r rest s).bc = s.bc := rfl
@[simp] theorem accept_tc (r : Request) (rest : List Request) : (accept r rest s).tc = s.tc := rfl
@[simp] theorem accept_sr (r : Request) (rest : List Request) : (accept r rest s).sr = s.sr := rfl
@[simp] theorem accept_sel (r : Request) (rest : List Request) : (accept r rest s).sel = s.sel := rfl
@[simp] theorem accept_tonic (r : Request) (rest : List Request) : (accept r rest s).tonic = s.tonic := rfl
@[simp] theorem accept_bpm (r : Request) (rest : List Request) : (accept r rest s).bpm = s.bpm := rfl
@[simp] theorem accept_fault (r : Request) (rest : List Request) : (accept r rest s).fault = s.fault := rfl
@[simp] theorem accept_started (r : Request) (rest : List Request) : (accept r rest s).started = s.started := rfl
@[simp] theorem accept_ports (r : Request) (rest : List Request) : (accept r rest s).ports = r.ports := rfl
@[simp] theorem accept_responses (r : Request) (rest : List Request) : (accept r rest s).responses = s.responses := rfl
@[simp] theorem accept_pending (r : Request) (rest : List Request) : (accept r rest s).pending = rest := rfl
@[simp] theorem accept_initFailures (r : Request) (rest : List Request) : (accept r rest s).initFailures = s.initFailures := rfl

@[simp] theorem pulseSteps_clk (p : Params) (snap : PerSlider Bool) : (pulseSteps p snap s).clk = clockNext p.clockWidth s.clk := rfl
@[simp] theorem pulseSteps_bc (p : Params) (snap : PerSlider Bool) : (pulseSteps p snap s).bc = bcNext (clockNext p.clockWidth s.clk) s.bc := rfl
@[simp] theorem pulseSteps_tc (p : Params) (snap : PerSlider Bool) : (pulseSteps p snap s).tc = tcNext (clockNext p.clockWidth s.clk) s.tc := rfl
@[simp] theorem pulseSteps_sr (p : Params) (snap : PerSlider Bool) : (pulseSteps p snap s).sr = srPush (parity snap.w snap.x snap.y snap.z) s.sr := rfl
@[simp] theorem pulseSteps_sel (p : Params) (snap : PerSlider Bool) : (pulseSteps p snap s).sel = s.sel := rfl
@[simp] theorem pulseSteps_tonic (p : Params) (snap : PerSlider Bool) : (pulseSteps p snap s).tonic = s.tonic := rfl
@[simp] theorem pulseSteps_bpm (p : Params) (snap : PerSlider Bool) : (pulseSteps p snap s).bpm = s.bpm := rfl
@[simp] theorem pulseSteps_fault (p : Params) (snap : PerSlider Bool) : (pulseSteps p snap s).fault = s.fault := rfl
@[simp] theorem pulseSteps_started (p : Params) (snap : PerSlider Bool) : (pulseSteps p snap s).started = s.started := rfl
@[simp] theorem pulseSteps_ports (p : Params) (snap : PerSlider Bool) : (pulseSteps p snap s).ports = s.ports := rfl
@[simp] theorem pulseSteps_responses (p : Params) (snap : PerSlider Bool) : (pulseSteps p snap s).responses = ⟨statusOk, encodeIndex snap.a snap.b snap.c snap.d,
        toFrequency p.semitoneRatio s.tonic (encodeIndex snap.a snap.b snap.c snap.d)⟩ :: s.responses := rfl
@[simp] theorem pulseSteps_pending (p : Params) (snap : PerSlider Bool) : (pulseSteps p snap s).pending = s.pending := rfl
@[simp] theorem pulseSteps_initFailures (p : Params) (snap : PerSlider Bool) : (pulseSteps p snap s).initFailures = s.initFailures := rfl

end Sys2Proof.Machine
end

