-- ==== Sys2Proof/Laws/Ops.lean ====
section
/-! SUPPORT. What each shared operation and each meaning can do, said once. -/

namespace Sys2Proof.Machine

/-- The refusal of R87. -/
theorem unlessFaulted_of_faulted {s : State} (o : Host.Outcome State Fault Refusal) (h : s.fault ≠ none) :
    unlessFaulted s o = .next (refuse s) := by
  unfold unlessFaulted
  split
  · rfl
  · contradiction

@[simp] theorem unlessFaulted_of_none {s : State} (o : Host.Outcome State Fault Refusal) (h : s.fault = none) :
    unlessFaulted s o = o := by
  simp [unlessFaulted, h]

/-- A PULSE refuses, or advances with its snapshot, or has no snapshot. -/
theorem pulseWith_cases (p : Params) (s : State) :
    (s.fault ≠ none ∧ pulseWith p s = .next (refuse s))
      ∨ (s.fault = none ∧ ∃ snap, snapshot s = some snap ∧ pulseWith p s = .next (pulseSteps p snap s))
      ∨ (s.fault = none ∧ snapshot s = none ∧ pulseWith p s = .fault .selectorOutOfRange) := by
  by_cases hf : s.fault = none
  · cases hs : snapshot s with
    | none => simp [hf, pulseWith, hs]
    | some snap => simp [hf, pulseWith, hs]
  · exact .inl ⟨hf, unlessFaulted_of_faulted _ hf⟩

/-- A PULSE that answers a next state refuses, or advances with its snapshot. -/
theorem pulseWith_next {p : Params} {s t : State} (h : pulseWith p s = .next t) :
    (s.fault ≠ none ∧ t = refuse s)
      ∨ (s.fault = none ∧ ∃ snap, snapshot s = some snap ∧ t = pulseSteps p snap s) := by
  rcases pulseWith_cases p s with ⟨hf, e⟩ | ⟨hf, snap, hs, e⟩ | ⟨_, _, e⟩ <;> rw [e] at h
  · exact .inl ⟨hf, by simpa using h.symm⟩
  · exact .inr ⟨hf, snap, hs, by simpa using h.symm⟩
  · simp at h

/-- A SET_SLIDER refuses, or raises CFG_SELECTOR, or stores. -/
theorem setSliderWith_cases (p : Params) (id : Slider) (v : Selector) (s : State) :
    (s.fault ≠ none ∧ setSliderWith p id v s = .next (refuse s))
      ∨ (s.fault = none ∧ p.maxSelector < v.toNat
          ∧ setSliderWith p id v s = .next (raiseError (.cfgSelector id v) s))
      ∨ (s.fault = none ∧ v.toNat ≤ p.maxSelector
          ∧ setSliderWith p id v s = .next (respondStatus statusOk { s with sel := s.sel.set id v })) := by
  by_cases hf : s.fault = none
  · by_cases hv : p.maxSelector < v.toNat
    · exact .inr (.inl ⟨hf, hv, by simp [setSliderWith, hf, selectorCheck, hv]⟩)
    · exact .inr (.inr ⟨hf, Nat.le_of_not_lt hv, by simp [setSliderWith, hf, selectorCheck, hv]⟩)
  · exact .inl ⟨hf, unlessFaulted_of_faulted _ hf⟩

/-- A RESET refuses, or clears the Clock and loads the seed when `r` is set. -/
theorem execReset_cases (r : Bool) (s : State) :
    (s.fault ≠ none ∧ execReset r s = .next (refuse s))
      ∨ (s.fault = none ∧ execReset r s = .next (respondStatus statusOk
          { s with clk := 0, sr := if r then s.ports.seedIn else s.sr })) := by
  by_cases hf : s.fault = none
  · exact .inr ⟨hf, by cases r <;> simp [execReset, hf, clockReset, srLoad]⟩
  · exact .inl ⟨hf, unlessFaulted_of_faulted _ hf⟩

/-- An INIT raises its configuration's first error and loses the elements, or loads the configuration. -/
theorem initWith_cases (p : Params) (s : State) :
    (∃ e, configError p s.ports = some e ∧ initWith p s = .next (raiseError e (loseElements s)))
      ∨ (configError p s.ports = none ∧ initWith p s = .next (respondStatus statusOk (loadConfig s.ports s))) := by
  cases h : configError p s.ports with
  | none => simp [initWith, h]
  | some e => simp [initWith, h]

/-- The selectors' part of the configuration check finds no error exactly when every selector is legal. -/
theorem selectorErrors_eq_none (p : Params) (v : PerSlider Selector) :
    Slider.all.findSome? (fun i => selectorCheck p i (v.get i)) = none
      ↔ ∀ i : Slider, (v.get i).toNat ≤ p.maxSelector := by
  rw [List.findSome?_eq_none_iff]
  constructor
  · intro h i
    have hi := h i (Slider.mem_all i)
    by_contra hlt
    simp [selectorCheck, Nat.lt_of_not_le hlt] at hi
  · intro h i _
    simp [selectorCheck, Nat.not_lt.mpr (h i)]

/-- A configuration has no error exactly when it is legal (70_reset_and_hazards.md R98). -/
theorem configError_eq_none (p : Params) (cfg : Ports) :
    configError p cfg = none ↔ (∀ i : Slider, (cfg.selIn.get i).toNat ≤ p.maxSelector) ∧ 0 < cfg.bpmIn.toInt
      ∧ F64.legalTonic cfg.tonicIn = true := by
  rw [← selectorErrors_eq_none, configError]
  cases Slider.all.findSome? (fun i => selectorCheck p i (cfg.selIn.get i)) with
  | some e => simp
  | none =>
    by_cases hb : cfg.bpmIn.toInt ≤ 0
    · simp [hb, Int.not_lt.mpr hb]
    · simp [hb, Int.lt_of_not_ge hb]

/-- An illegal word, or a command, issued by the host. -/
theorem issueWord_cases (meaning : Meaning) (w : CommandWord) (s : State) :
    (s.fault ≠ none ∧ issueWord meaning w s = .next (refuse s))
      ∨ (s.fault = none ∧ ∃ i, decode w = .command i ∧ issueWord meaning w s = meaning i s)
      ∨ (s.fault = none ∧ ∃ why, decode w = .illegal why
          ∧ issueWord meaning w s = .next (raiseError (.illegalCommand w) s)) := by
  by_cases hf : s.fault = none
  · cases hd : decode w with
    | command i => exact .inr (.inl ⟨hf, i, rfl, by simp [issueWord, hf, hd]⟩)
    | illegal why => exact .inr (.inr ⟨hf, why, rfl, by simp [issueWord, hf, hd]⟩)
  · exact .inl ⟨hf, unlessFaulted_of_faulted _ hf⟩

/-- The commands under the spec's parameters are the machine's. -/
theorem execWith_specParams : execWith specParams = exec := by
  funext i s
  cases i <;> rfl

/-- The step under the spec's parameters is the machine's. -/
theorem stepWith_specParams : stepWith specParams = step := by
  funext s
  rw [stepWith, execWith_specParams, step]

/-- What one step of the block can do, for any meaning of the commands: hold the state, or refuse a word, or raise
IllegalCommand, or run a command. -/
theorem stepHost_cases (meaning : Meaning) (s : State) :
    (s.pending = [] ∧ stepHost meaning s = .next s)
      ∨ (∃ r rest w, s.pending = r :: rest ∧ r.command = .word w ∧ s.fault ≠ none
          ∧ stepHost meaning s = .next (refuse (accept r rest s)))
      ∨ (∃ r rest w why, s.pending = r :: rest ∧ r.command = .word w ∧ s.fault = none ∧ decode w = .illegal why
          ∧ stepHost meaning s = .next (raiseError (.illegalCommand w) (accept r rest s)))
      ∨ (∃ r rest w i, s.pending = r :: rest ∧ r.command = .word w ∧ s.fault = none ∧ decode w = .command i
          ∧ stepHost meaning s = meaning i (accept r rest s))
      ∨ (∃ r rest, s.pending = r :: rest ∧ r.command = .powerOn
          ∧ stepHost meaning s = meaning .init (accept r rest s)) := by
  unfold stepHost
  cases hq : s.pending with
  | nil => exact .inl ⟨rfl, rfl⟩
  | cons r rest =>
    refine .inr ?_
    cases hc : r.command with
    | powerOn => exact .inr (.inr (.inr ⟨r, rest, rfl, hc, by simp [issue, hc]⟩))
    | word w =>
      rcases issueWord_cases meaning w (accept r rest s) with ⟨hf, e⟩ | ⟨hf, i, hd, e⟩ | ⟨hf, why, hd, e⟩
      · exact .inl ⟨r, rest, w, rfl, hc, by simpa using hf, by simpa [issue, hc] using e⟩
      · exact .inr (.inr (.inl ⟨r, rest, w, i, rfl, hc, by simpa using hf, hd, by simpa [issue, hc] using e⟩))
      · exact .inr (.inl ⟨r, rest, w, why, rfl, hc, by simpa using hf, hd, by simpa [issue, hc] using e⟩)

/-- What every step of the machine can do. -/
theorem step_cases (s : State) :
    (s.pending = [] ∧ step s = .next s)
      ∨ (∃ r rest w, s.pending = r :: rest ∧ r.command = .word w ∧ s.fault ≠ none
          ∧ step s = .next (refuse (accept r rest s)))
      ∨ (∃ r rest w why, s.pending = r :: rest ∧ r.command = .word w ∧ s.fault = none ∧ decode w = .illegal why
          ∧ step s = .next (raiseError (.illegalCommand w) (accept r rest s)))
      ∨ (∃ r rest w i, s.pending = r :: rest ∧ r.command = .word w ∧ s.fault = none ∧ decode w = .command i
          ∧ step s = exec i (accept r rest s))
      ∨ (∃ r rest, s.pending = r :: rest ∧ r.command = .powerOn ∧ step s = exec .init (accept r rest s)) :=
  stepHost_cases exec s

/-- No command is refused by the model. -/
theorem exec_ne_refused (i : Instr) (s : State) (r : Refusal) : exec i s ≠ .refused r := by
  cases i with
  | pulse =>
    rcases pulseWith_cases specParams s with ⟨_, e⟩ | ⟨_, _, _, e⟩ | ⟨_, _, e⟩ <;> simp [exec, execPulse, e]
  | setSlider id v =>
    rcases setSliderWith_cases specParams id v s with ⟨_, e⟩ | ⟨_, _, e⟩ | ⟨_, _, e⟩ <;>
      simp [exec, execSetSlider, e]
  | reset r' => rcases execReset_cases r' s with ⟨_, e⟩ | ⟨_, e⟩ <;> simp [exec, e]
  | init => rcases initWith_cases specParams s with ⟨_, _, e⟩ | ⟨_, e⟩ <;> simp [exec, execInit, e]

/-! Agreement on the state elements is an equivalence. -/

theorem State.SameElements.refl (s : State) : s.SameElements s := ⟨rfl, rfl, rfl, rfl, fun _ => rfl, rfl, rfl, rfl⟩

theorem State.SameElements.symm {s t : State} (h : s.SameElements t) : t.SameElements s := by
  obtain ⟨h₁, h₂, h₃, h₄, h₅, h₆, h₇, h₈⟩ := h
  exact ⟨h₁.symm, h₂.symm, h₃.symm, h₄.symm, fun i => (h₅ i).symm, h₆.symm, h₇.symm, h₈.symm⟩

theorem State.SameElements.trans {s t u : State} (h : s.SameElements t) (k : t.SameElements u) : s.SameElements u := by
  obtain ⟨h₁, h₂, h₃, h₄, h₅, h₆, h₇, h₈⟩ := h
  obtain ⟨k₁, k₂, k₃, k₄, k₅, k₆, k₇, k₈⟩ := k
  exact ⟨h₁.trans k₁, h₂.trans k₂, h₃.trans k₃, h₄.trans k₄, fun i => (h₅ i).trans (k₅ i), h₆.trans k₆, h₇.trans k₇,
    h₈.trans k₈⟩

/-- What every step keeps, every run keeps. -/
theorem run_keeps {Inv : State → Prop} (hstep : ∀ s t, Inv s → step s = .next t → Inv t) :
    ∀ (n : Nat) (s t : State), Inv s → run n s = .next t → Inv t := by
  intro n
  induction n with
  | zero =>
    intro s t hi h
    cases h
    exact hi
  | succ n ih =>
    intro s t hi h
    rw [run] at h
    cases hs : step s with
    | next u =>
      rw [hs] at h
      exact ih u t (hstep s u hi hs) h
    | fault r => simp [hs] at h
    | refused r => simp [hs] at h

end Sys2Proof.Machine
end

