-- ==== Sys2Proof/Laws/PerInstr.lean ====
section
/-! SUPPORT. Lemmas stated of each command, one per constructor of `Instr`. -/

namespace Sys2Proof.Laws.OpcodeFieldOfWord

/-- The opcode of a command word (30_encoding.md R46). -/
def opcode : Instr → Option (BitVec 4)
  | .pulse => some 1
  | .setSlider _ _ => some 2
  | .reset _ => some 3
  | .init => none

/-- The word of a command carries the opcode of R46 in `cmd[15:12]`; INIT has neither. -/
def Statement (i : Instr) : Prop := (encode i).map opcodeField = opcode i

theorem pulse : Statement .pulse := by
  unfold Statement
  decide

theorem setSlider (id : Slider) (sel : Selector) : Statement (.setSlider id sel) := by
  unfold Statement
  revert sel
  cases id <;> decide

theorem reset (r : Bool) : Statement (.reset r) := by
  unfold Statement
  cases r <;> decide

theorem init : Statement .init := rfl

end Sys2Proof.Laws.OpcodeFieldOfWord
end

