-- ==== Sys2Proof/Tests/Slice0.lean ====
section
/-! SUPPORT. The model's own tests. Expected results are those of 95_test_vectors.md (V1 to V9, P1 to P6), of the rules' own
examples, or written out from the encodings; each test names its source. Then, for each statement with hypotheses, a state
and operands that meet them. -/

namespace Sys2Proof.Tests

open Sys2Proof.Machine

/-- The next state of an outcome, if there is one. -/
def nextState : Host.Outcome State Fault Refusal → Option State
  | .next s => some s
  | .fault _ => none
  | .refused _ => none

/-- The reset state with other elements. -/
def small (clk : Nat) (bc : BitVec 5) (tc : BitVec 2) (sr : Stages) (sel : PerSlider Selector) : State :=
  { State.reset with clk := clk, bc := bc, tc := tc, sr := sr, sel := sel }

/-- All sliders on one selector. -/
def every (v : Selector) : PerSlider Selector := ⟨v, v, v, v, v, v, v, v⟩

/-- The reset state with an error recorded (95_test_vectors.md V9, first row). -/
def faulted : State := { State.reset with fault := some (.cfgSelector .y 40) }

/-- The reset state with one word pending. -/
def withWord (w : CommandWord) : State := { State.reset with pending := [⟨.word w, Ports.example75⟩] }

/-! ### Well-formedness: each check refuses an ill-formed term -/

theorem test_wellFormed_refuses_init : Instr.init.wellFormed = false := by decide

theorem test_wellFormed_accepts_selector_63 : (Instr.setSlider .z 63).wellFormed = true := by decide

theorem test_params_refuse_maxSelector_40 : Params.wellFormed { specParams with maxSelector := 40 } = false := by decide

theorem test_params_refuse_clock_of_no_bits : Params.wellFormed { specParams with clockWidth := some 0 } = false := by
  decide

theorem test_params_accept_the_admitted :
    specParams.wellFormed = true ∧ Params.wellFormed ⟨some 32, 37, .legacy⟩ = true := by decide

/-! ### Decoding: words written out from the encodings of 30_encoding.md R40 to R42 -/

theorem test_decode_pulse : decode 0b0001000000000000#16 = .command .pulse := by decide

theorem test_decode_setSlider :
    -- 0010 | id 110 (Y) | 000 | sel 100111 (39)
    decode 0b0010110000100111#16 = .command (.setSlider .y 39)
      -- 0010 | id 001 (B) | 000 | sel 000011 (3)
      ∧ decode 0b0010001000000011#16 = .command (.setSlider .b 3) := by decide

theorem test_decode_reset :
    decode 0b0011000000000000#16 = .command (.reset false) ∧ decode 0b0011000000000001#16 = .command (.reset true) := by
  decide

/-- The illegal words of V8. -/
theorem test_decode_illegal :
    [0x1001, 0x1800, 0x2040, 0x3002, 0x0000, 0x4000, 0xFFFF].all
      (fun w => match decode (BitVec.ofNat 16 w) with
        | .command _ => false
        | .illegal _ => true) = true := by decide

/-- The words of 30_encoding.md R40 to R42 and of V8. -/
theorem test_encode :
    encode .pulse = some 0x1000 ∧ encode (.setSlider .c 4) = some 0x2404 ∧ encode (.setSlider .z 63) = some 0x2E3F
      ∧ encode (.reset false) = some 0x3000 ∧ encode (.reset true) = some 0x3001 ∧ encode .init = none := by decide

/-- The words of the programs P4 and P6. -/
theorem test_assemble :
    (assemble Ports.example75 (.setsl .d 5)).command = .word 0x2605
      ∧ assemble Ports.example75 (.resetSeed 0x40000001)
        = ⟨.word 0x3001, { Ports.example75 with seedIn := 0x40000001 }⟩ := by decide

theorem test_tableWord_rows :
    decodeTableWord 16 0x1000 = some .pulse ∧ decodeTableWord 16 0x2000 = some (.setSlider .a 0)
      ∧ decodeTableWord 16 0x3000 = some (.reset false) ∧ decodeTableWord 0 0 = some .init
      ∧ decodeTableWord 16 0x4000 = none := by decide

/-! ### Micro-operations: tables V2 to V7 -/

theorem test_clockNext_V2 :
    clockNext none 5 = 6 ∧ clockNext none (2 ^ 64 - 1) = 2 ^ 64 ∧ clockNext (some 3) 7 = 0 := by decide

/-- Table V3: BC before, c, BC after, written by value (b0 least significant). -/
theorem test_bcNext_V3 :
    [(0, 1, 1), (1, 2, 2), (3, 4, 4), (10, 8, 5), (15, 16, 16), (23, 16, 8), (16, 17, 17), (21, 6, 22), (31, 32, 0),
      (31, 1, 0), (31, 7, 0), (0, 0, 31), (31, 0, 0)].all
      (fun r => bcNext r.2.1 (BitVec.ofNat 5 r.1) == BitVec.ofNat 5 r.2.2) = true := by decide

/-- Table V4: TC before, c, TC after, written by value (t0 least significant). -/
theorem test_tcNext_V4 :
    [(0, 1, 0), (0, 3, 1), (2, 4, 2), (1, 6, 2), (3, 6, 0), (2, 9, 3), (3, 12, 0), (3, 0, 0)].all
      (fun r => tcNext r.2.1 (BitVec.ofNat 2 r.1) == BitVec.ofNat 2 r.2.2) = true := by decide

/-- Table V5. -/
theorem test_srPush_V5 :
    srPush true 0 = 1 ∧ srPush false 0x2AAAAAAA = 0x55555554 ∧ srPush false 0x55555554 = 0x2AAAAAA8
      ∧ srPush false 0x40000000 = 0 ∧ srPush true 0x7FFFFFFF = 0x7FFFFFFF := by decide

/-- Table V6: BC = 10100, TC = 01, SR = 0x40000001. -/
theorem test_sliderOutput_V6 :
    [0, 1, 2, 3, 4, 5, 6, 7, 8, 9, 10, 38, 39, 40].map
        (fun v => sliderOutput (small 0 0b00101 0b10 0x40000001 (every 0)) (BitVec.ofNat 6 v))
      = [some false, some true, some true, some false, some true, some false, some false, some false, some true,
        some true, some false, some false, some true, none] := by decide

/-- Table V6: SELECTOR_CHECK under both values of `MAX_SELECTOR`. -/
theorem test_selectorCheck_V6 :
    [37, 38, 39, 40, 63].map (fun v => (selectorCheck specParams .a (BitVec.ofNat 6 v)).isNone)
        = [true, true, true, false, false]
      ∧ [37, 38, 39, 40, 63].map
          (fun v => (selectorCheck { specParams with maxSelector := 37 } .a (BitVec.ofNat 6 v)).isNone)
        = [true, false, false, false, false] := by decide

/-- 43_parity.md R64's example and two rows of V6. -/
theorem test_parity :
    parity true false true true = true ∧ parity true true true true = false ∧ parity false true false false = true := by
  decide

/-- 44_note_mapper.md R65's and R67's examples. -/
theorem test_encode_halfTone : encodeIndex true false true false = 5 ∧ halfTone 5 = 9 ∧ halfTone 15 = 24 := by decide

/-- The encodings under table V7: the reference evaluation at tonic 440.0, indices 7 and 14, is bit for bit the spec's. -/
theorem test_referenceFrequency_V7 :
    referenceFrequency .exact 0x407B800000000000 12 = 0x408B800000000003
      ∧ referenceFrequency .exact 0x407B800000000000 24 = 0x409B800000000009 := by decide +kernel

/-- Table V7's corner case: a tonic of 4.6e307 overflows at half-tone 24 and not at 23. -/
theorem test_overflow_V7 :
    overflows .exact 0x7FD0606529498F9D 24 = true ∧ overflows .exact 0x7FD0606529498F9D 23 = false := by decide +kernel

/-- 90_conflicts.md C5: twice the tonic is within the tolerance of twelve half-tones under EXACT and not under LEGACY. -/
theorem test_octave_C5 :
    withinTolerance .exact 0x407B800000000000 12 0x408B800000000000 = true
      ∧ withinTolerance .legacy 0x407B800000000000 12 0x408B800000000000 = false := by decide +kernel

/-- 45_engine_commands.md R75's corner cases: -0.0, +0.0, a NaN, +infinity, the least subnormal. -/
theorem test_legalTonic :
    [0x8000000000000000, 0, 0x7FF8000000000000, 0x7FF0000000000000, 1].map F64.legalTonic
      = [false, false, false, false, true] := by decide +kernel

/-! ### Commands: one step each -/

/-- 45_engine_commands.md R71's example, PULSE 1 of P1. -/
theorem test_pulse_P1 :
    (nextState (exec .pulse State.reset)).map (fun t => (t.clk, t.bc, t.tc, t.sr)) = some (1, 1, 0, 0x55555554) := by
  decide

/-- P4, the first PULSE after RESET: the all-ones rule fires, and the degree is the old counter's. -/
theorem test_pulse_P4 :
    (nextState (exec .pulse (small 0 31 2 0 ⟨2, 3, 4, 5, 0, 0, 0, 0⟩))).map
      (fun t => (t.clk, t.bc, t.tc, t.responses.head?.map (·.degree))) = some (1, 0, 2, some 15) := by
  decide

/-- V9: `SETSL Y, 40`. -/
theorem test_setSlider_V9 :
    (nextState (exec (.setSlider .y 40) State.reset)).map (fun t => (t.sel.y, t.fault, t.responses.head?.map (·.status)))
      = some (0, some (.cfgSelector .y 40), some 0x1) := by decide

/-- 45_engine_commands.md R73's example: `SETSL C, 4`. -/
theorem test_setSlider_C4 :
    (nextState (exec (.setSlider .c 4) State.reset)).map (fun t => (t.sel.c, t.sel.b, t.fault)) = some (4, 0, none) := by
  decide

/-- 45_engine_commands.md R74's example. -/
theorem test_reset_keeps_counters :
    (nextState (exec (.reset false) (small 31 31 2 5 (every 0)))).map (fun t => (t.clk, t.bc, t.tc, t.sr))
      = some (0, 31, 2, 5) := by decide

/-- P6: `RESET.SEED 0x40000001`. -/
theorem test_reset_seed :
    (nextState (exec (.reset true)
      { small 6 6 2 7 (every 0) with ports := { Ports.example75 with seedIn := 0x40000001 } })).map
      (fun t => (t.clk, t.sr)) = some (0, 0x40000001) := by decide

/-- V9: INIT with sel[3] = 50, sel[5] = 45, bpm = 0 reports slider D. -/
theorem test_init_lowest_selector :
    (nextState (exec .init
      { State.reset with ports := { Ports.example75 with bpmIn := 0, selIn := ⟨0, 0, 0, 50, 0, 45, 0, 0⟩ } })).map
      (fun t => (t.fault, t.started)) = some (some (.cfgSelector .d 50), false) := by decide

/-- V9: INIT with bpm = 60 and tonic -0.0. -/
theorem test_init_negative_zero_tonic :
    (nextState (exec .init
      { State.reset with ports := { Ports.example75 with bpmIn := 60, tonicIn := 0x8000000000000000 } })).map
      (fun t => (t.fault, t.responses.head?.map (·.status)))
      = some (some (.cfgTonic 0x8000000000000000), some 0x3) := by decide +kernel

/-- V9: FAULTED wins over ILLEGAL_COMMAND, and a word that is illegal raises it otherwise. -/
theorem test_step_illegal_word :
    (nextState (step { faulted with pending := [⟨.word 0x4000, Ports.example75⟩] })).map
        (fun t => (t.fault, t.responses.head?.map (·.status))) = some (faulted.fault, some 0x5)
      ∧ (nextState (step (withWord 0x4000))).map (fun t => (t.fault, t.responses.head?.map (·.status)))
        = some (some (.illegalCommand 0x4000), some 0x4) := by decide

/-- The first step after reset runs a placed word. -/
theorem test_first_step_after_reset :
    (nextState (step (State.reset.withFetchWord 16 0x1000))).map (fun t => (t.clk, t.responses.length)) = some (1, 2)
      ∧ (nextState (step (State.reset.withFetchWord 16 0x2027))).map (·.sel.a) = some 39 := by decide

/-- Under `MAX_SELECTOR` 37 a SET_SLIDER of 38 is an error (00_scope.md R8). -/
theorem test_setSlider_under_37 :
    (nextState (setSliderWith { specParams with maxSelector := 37 } .a 38 State.reset)).map (·.fault)
      = some (some (.cfgSelector .a 38)) := by decide

/-- The debug view of a failed INIT shows the error alone (45_engine_commands.md R76). -/
theorem test_debugView_after_failed_init :
    (nextState (exec .init { State.reset with ports := { Ports.example75 with bpmIn := 0 } })).map State.debugView
      = some ⟨some (.cfgBpm 0), none⟩ := by decide +kernel

/-! ### Witnesses: states and operands that meet the hypotheses of the statements, clause by clause -/

theorem witness_selectors_reset : State.reset.SelectorsUpTo 39 := by
  intro i
  cases i <;> decide

/-- The largest selector, on the boundary. -/
theorem witness_selectors_boundary : (small 0 0 0 0 (every 39)).SelectorsUpTo 39 := by
  intro i
  cases i <;> decide

/-- DecodeEncodeAgree, EncodeDecodeAgree. -/
theorem witness_wellFormed_word :
    (Instr.setSlider .z 63).wellFormed = true ∧ decode 0x2E3F = .command (.setSlider .z 63) := by decide

/-- StepRunsTheNextCommand (both clauses), EveryCommandAnswersOnce. -/
theorem witness_next_word_runs :
    (withWord 0x3001).pending = ⟨.word 0x3001, Ports.example75⟩ :: [] ∧ (withWord 0x3001).fault = none
      ∧ decode 0x3001 = .command (.reset true) ∧ (nextState (step (withWord 0x3001))).isSome = true := by decide

/-- AssemblerLinesRunTheirCommands has no hypotheses; its two cases, a faulted engine and one that is not, at `RESET`. -/
theorem witness_assembled_line :
    (nextState (step { faulted with pending := [assemble Ports.example75 .reset] })).map
        (fun t => (t.fault, t.responses.head?.map (·.status))) = some (faulted.fault, some 0x5)
      ∧ (nextState (step { State.reset with pending := [assemble Ports.example75 .reset] })).map
        (fun t => (t.fault, t.responses.head?.map (·.status))) = some (none, some 0x0) := by decide

theorem witness_power_on_runs :
    ({ faulted with pending := [⟨.powerOn, Ports.example75⟩] } : State).pending = ⟨.powerOn, Ports.example75⟩ :: [] := rfl

/-- PlacedTableWordRuns. -/
theorem witness_table_word : State.reset.fault = none ∧ decodeTableWord 16 0x1000 = some .pulse := by decide

/-- NoCommandNoChange. -/
theorem witness_no_command : State.reset.pending = [] := rfl

/-- IllegalWordRaises. -/
theorem witness_illegal_word :
    (withWord 0x4000).pending = ⟨.word 0x4000, Ports.example75⟩ :: [] ∧ (withWord 0x4000).fault = none
      ∧ decode 0x4000 = .illegal .reservedOpcode := by decide

/-- FaultedEngineRefuses: a word (first clause), a command (second), and a power-on that clears the fault (third). -/
theorem witness_faulted_engine :
    faulted.fault = some (.cfgSelector .y 40) ∧ Instr.pulse ≠ .init
      ∧ (nextState (step { faulted with pending := [⟨.powerOn, Ports.example75⟩] })).map (·.fault) = some none := by
  decide +kernel

/-- FaultedRunStaysFaulted, with two words pending. -/
theorem witness_faulted_run :
    ∀ r ∈ ({ faulted with pending := [⟨.word 0x1000, Ports.example75⟩, ⟨.word 0x4000, Ports.example75⟩] } : State).pending,
      r.command ≠ .powerOn := by decide

/-- ErrorPriority, the word clauses: an illegal word while faulted and not, and SETSL with selector 40. -/
theorem witness_word_priority :
    (nextState (step { faulted with pending := [⟨.word 0x4000, Ports.example75⟩] })).isSome = true ∧ faulted.fault ≠ none
      ∧ (nextState (step (withWord 0x4000))).isSome = true ∧ (withWord 0x4000).fault = none
      ∧ decode 0x4000 = .illegal .reservedOpcode
      ∧ (nextState (step (withWord 0x2C28))).isSome = true ∧ decode 0x2C28 = .command (.setSlider .y 40)
      ∧ 39 < (40 : Selector).toNat := by decide

/-- ErrorPriority and InitResult: a failing selector with only legal ones below it. -/
theorem witness_init_selector :
    39 < ((⟨0, 0, 0, 40, 0, 45, 0, 0⟩ : PerSlider Selector).get .d).toNat
      ∧ ∀ j : Slider, j.id.toNat < (Slider.d).id.toNat →
        ((⟨0, 0, 0, 40, 0, 45, 0, 0⟩ : PerSlider Selector).get j).toNat ≤ 39 := by
  refine ⟨by decide, fun j => ?_⟩
  cases j <;> decide

/-- ErrorPriority and InitResult: legal selectors with tempo 0; with tempo 1 and an infinite tonic; and InitResult's first
clause, all legal, with tempo 1 and the least subnormal tonic. -/
theorem witness_init_tempo_and_tonic :
    (∀ j : Slider, ((every 39).get j).toNat ≤ 39) ∧ (0 : BitVec 32).toInt ≤ 0 ∧ 0 < (1 : BitVec 32).toInt
      ∧ F64.legalTonic 0x7FF0000000000000 = false ∧ F64.legalTonic 1 = true := by
  refine ⟨fun j => ?_, by decide +kernel⟩
  cases j <;> decide

/-- PulseResult, PulseRaisesNothing and the other statements about a PULSE that is not refused: reset, and every selector at
the boundary. -/
theorem witness_pulse_runs :
    State.reset.fault = none ∧ (nextState (exec .pulse State.reset)).isSome = true
      ∧ (nextState (exec .pulse (small 7 5 1 3 (every 39)))).isSome = true
      ∧ snapshot State.reset = some ⟨false, false, false, false, false, false, false, false⟩ := by decide

/-- AllSlidersOffPlaysTheTonic. -/
theorem witness_all_off : State.reset.fault = none ∧ (∀ i : Slider, State.reset.sel.get i = 0)
    ∧ F64.legalTonic State.reset.tonic = true := by
  refine ⟨rfl, fun i => ?_, by decide +kernel⟩
  cases i <;> rfl

/-- AllZeroShiftRegisterStays, with theme sliders on 0, 9 and 39. -/
theorem witness_all_zero :
    (small 0 31 3 0 ⟨1, 1, 1, 1, 0, 9, 39, 39⟩).SelectorsUpTo 39
      ∧ ∀ i ∈ [Slider.w, .x, .y, .z], ((small 0 31 3 0 ⟨1, 1, 1, 1, 0, 9, 39, 39⟩).sel.get i).toNat = 0
        ∨ 9 ≤ ((small 0 31 3 0 ⟨1, 1, 1, 1, 0, 9, 39, 39⟩).sel.get i).toNat := by
  refine ⟨fun i => ?_, by decide⟩
  cases i <;> decide

/-- ClockPulseCounts: both kinds of width, and the wrap. -/
theorem witness_clock_widths :
    specParams.clockWidth = none ∧ ({ specParams with clockWidth := some 3 } : Params).clockWidth = some 3
      ∧ (small 7 0 0 0 (every 0)).clk = 2 ^ 3 - 1 := by decide

/-- BinaryCounterAdvances: both clauses. -/
theorem witness_counter_clauses : (small 1 0b11111 0 0 (every 0)).bc = 0b11111 ∧ State.reset.bc ≠ 0b11111 := by decide

/-- BinaryCounterClosedForm, first clause, at the wrap from 31. -/
theorem witness_counter_step : 1 ≤ 32 ∧ (0b11111 : BitVec 5).toNat = (32 - 1) % 32 := by decide

/-- The ports of P2's sliders: A, B, C, D on selectors 2, 3, 4, 5. -/
def scalePorts : Ports := { Ports.example75 with selIn := ⟨2, 3, 4, 5, 0, 0, 0, 0⟩ }

/-- The state after the INIT of those ports. -/
def scaleStart : State := respondStatus statusOk (loadConfig scalePorts { State.reset with ports := scalePorts })

theorem scaleStart_onInitPath : OnInitPath scaleStart := by
  have hc : configError specParams scalePorts = none := by decide +kernel
  refine OnInitPath.init { State.reset with ports := scalePorts } scaleStart ?_ rfl
  simp [exec, execInit, initWith, hc, scaleStart]

/-- BinaryCounterClosedForm, TripleCounterClosedForm (with a Clock of 1), CountersSeeTheClockMod48. -/
theorem witness_path_pulse :
    ∃ t, OnInitPath t ∧ t.clk = 1 := by
  cases h : exec .pulse scaleStart with
  | next t =>
    refine ⟨t, OnInitPath.pulse _ _ scaleStart_onInitPath h, ?_⟩
    have hk : (nextState (exec .pulse scaleStart)).map (·.clk) = some 1 := by decide
    simpa [h, nextState] using hk
  | fault r =>
    have hk : (nextState (exec .pulse scaleStart)).isSome = true := by decide
    simp [h, nextState] at hk
  | refused r => exact absurd h (exec_ne_refused _ _ r)

/-- CounterBoundSliders, the clause about the scale. -/
theorem witness_scale :
    OnInitPath scaleStart ∧ scaleStart.fault = none ∧ scaleStart.SelectorsUpTo 39 ∧ scaleStart.sel.a = 2
      ∧ scaleStart.sel.b = 3 ∧ scaleStart.sel.c = 4 ∧ scaleStart.sel.d = 5 := by
  refine ⟨scaleStart_onInitPath, rfl, fun i => ?_, rfl, rfl, rfl, rfl⟩
  cases i <;> decide

/-- FiniteClockWrap: width 5, on the wrap. -/
theorem witness_finite_clock :
    ({ specParams with clockWidth := some 5 } : Params).clockWidth = some 5 ∧ (small 31 31 2 0 (every 0)).clk = 2 ^ 5 - 1
      ∧ (small 31 31 2 0 (every 0)).clk < 2 ^ 5 ∧ (small 31 31 2 0 (every 0)).bc.toNat = 31 % 32 := by decide

theorem witness_finite_clock_selectors : (small 31 31 2 0 (every 0)).SelectorsUpTo 39 := by
  intro i
  cases i <;> decide

/-- The state before PULSE `j + 1` of an all-off run: the Clock counts and the register shifts zeros in. -/
def offRun (j : Nat) : State := { State.reset with clk := j, sr := (srPush false)^[j] 0x2AAAAAAA }

/-- ShiftRegisterHistory and FeedbackLatency: a sequence of PULSEs, for every length. -/
theorem witness_pulse_sequence (j : Nat) :
    (offRun j).fault = none
      ∧ (∃ snap, snapshot (offRun j) = some snap ∧ false = parity snap.w snap.x snap.y snap.z)
      ∧ ∃ t, exec .pulse (offRun j) = .next t ∧ (offRun (j + 1)).sr = t.sr := by
  have hs : snapshot (offRun j) = some ⟨false, false, false, false, false, false, false, false⟩ := rfl
  refine ⟨rfl, ⟨_, hs, by decide⟩, ?_⟩
  rcases pulseWith_cases specParams (offRun j) with ⟨h, _⟩ | ⟨_, snap, h, e⟩ | ⟨_, h, _⟩
  · exact absurd rfl h
  · rw [hs] at h
    cases h
    exact ⟨_, e, Function.iterate_succ_apply' _ _ _⟩
  · rw [hs] at h
    cases h

theorem witness_feedback_selector : (30 : Nat) ≤ 30 ∧ (39 : Selector).toNat = 9 + 30 := by decide

/-- SliderOutputIndexesTheSources: each clause at both ends of its range. -/
theorem witness_selector_ranges :
    (0 : Selector).toNat = 0 ∧ (1 : Selector).toNat = 1 ∧ (2 : Selector).toNat = 2 + 0 ∧ (6 : Selector).toNat = 2 + 4
      ∧ (7 : Selector).toNat = 7 + 0 ∧ (8 : Selector).toNat = 7 + 1 ∧ (9 : Selector).toNat = 9 + 0
      ∧ (39 : Selector).toNat = 9 + 30 ∧ 40 ≤ (40 : Selector).toNat := by decide

/-- SelectorCheckBounds, SliderWriteSeenByNextPulse, SetSliderResult: both sides of the bound, and a register that already
holds the value. -/
theorem witness_selector_bound :
    specParams.maxSelector < (40 : Selector).toNat ∧ (39 : Selector).toNat ≤ specParams.maxSelector
      ∧ State.reset.sel.get .a = 0 ∧ State.reset.fault = none ∧ faulted.fault ≠ none := by decide

/-- ParityOfTheThemeSliders, with theme outputs 1, 0, 1, 1. -/
theorem witness_theme_outputs :
    [sliderOutput (small 0 1 0 1 ⟨0, 0, 0, 0, 1, 0, 2, 9⟩) 1, sliderOutput (small 0 1 0 1 ⟨0, 0, 0, 0, 1, 0, 2, 9⟩) 0,
      sliderOutput (small 0 1 0 1 ⟨0, 0, 0, 0, 1, 0, 2, 9⟩) 2, sliderOutput (small 0 1 0 1 ⟨0, 0, 0, 0, 1, 0, 2, 9⟩) 9]
      = [some true, some false, some true, some true] := by decide

/-- FrequencyProperties and OctaveAtIndexSeven: 440.0, h = 12, in the normal range. -/
theorem witness_frequency :
    F64.legalTonic 0x407B800000000000 = true ∧ (12 : HalfTones).toNat ≤ 24
      ∧ reachesNormal .exact 0x407B800000000000 12 = true ∧ overflows .exact 0x407B800000000000 12 = false
      ∧ reachesNormal .legacy 0x407B800000000000 24 = true ∧ overflows .legacy 0x407B800000000000 24 = false
      ∧ F64.minNormalUnits ≤ 2 * F64.units 0x407B800000000000
      ∧ 2 * F64.units 0x407B800000000000 ≤ F64.maxFiniteUnits := by decide +kernel

/-- The premises of FrequencyProperties' second clause, for a tonic, a ratio and a half-tone count. -/
abbrev InNormalRange (ratio : SemitoneRatio) (t : Binary64) (h : HalfTones) : Prop :=
  F64.legalTonic t = true ∧ h.toNat ≤ 24
    ∧ F64.minNormalUnits ^ rhoDegree ratio * rhoDen ratio h ≤ F64.units t ^ rhoDegree ratio * rhoNum ratio h
    ∧ F64.units t ^ rhoDegree ratio * rhoNum ratio h ≤ F64.maxFiniteUnits ^ rhoDegree ratio * rhoDen ratio h

/-- FrequencyProperties, with the exact frequency on either end of the normal range: under EXACT the tonic 2^-1023, a subnormal,
and half of DBL_MAX, an octave up; under LEGACY both ends themselves, at half-tone 0. -/
theorem witness_frequency_ends :
    InNormalRange .exact 0x0008000000000000 12 ∧ InNormalRange .exact 0x7FDFFFFFFFFFFFFF 12
      ∧ InNormalRange .legacy 0x0010000000000000 0 ∧ InNormalRange .legacy F64.maxFinite 0 := by decide +kernel

/-- OctaveAtIndexSeven, on the same two ends. -/
theorem witness_octave_ends :
    halfTone 7 = 12 ∧ 2 * F64.units 0x0008000000000000 = F64.minNormalUnits
      ∧ 2 * F64.units 0x7FDFFFFFFFFFFFFF = F64.maxFiniteUnits := by decide +kernel

/-- The premises of FrequencyOverflow's first clause. -/
abbrev BeyondFinite (ratio : SemitoneRatio) (t : Binary64) (index : Degree) : Prop :=
  F64.legalTonic t = true
    ∧ F64.maxFiniteUnits ^ rhoDegree ratio * rhoDen ratio (halfTone index)
      < F64.units t ^ rhoDegree ratio * rhoNum ratio (halfTone index)

/-- FrequencyOverflow: 4.6e307 at index 15, and DBL_MAX at index 1, under each ratio. -/
theorem witness_frequency_overflow :
    BeyondFinite .exact 0x7FD0606529498F9D 15 ∧ BeyondFinite .exact F64.maxFinite 1
      ∧ BeyondFinite .legacy 0x7FD0606529498F9D 15 ∧ BeyondFinite .legacy F64.maxFinite 1 := by decide +kernel

/-- ResetResult: every clause. -/
theorem witness_reset_clauses : State.reset.fault = none ∧ State.reset.clk = 0 ∧ faulted.fault ≠ none := by decide

/-- FailedInitPreventsStart: the state that a failed INIT leaves, with a word pending, and a legal INIT from a state that is
not started. -/
theorem witness_failed_init :
    (nextState (exec .init { State.reset with ports := { Ports.example75 with bpmIn := 0 } })).map
        (fun t => (t.fault, t.started)) = some (some (.cfgBpm 0), false)
      ∧ ({ faulted with started := false, pending := [⟨.word 0x1000, Ports.example75⟩] } : State).debugView
        = ⟨some (.cfgSelector .y 40), none⟩
      ∧ (nextState (exec .init { faulted with started := false })).map (·.fault) = some none := by decide +kernel

/-- CommandFootprints, CommandFrames, PortsReadOnlyWhereStated, BpmIsNeverRead: each command answers a next state. -/
theorem witness_commands_answer :
    [Instr.pulse, .setSlider .x 39, .reset false, .reset true, .init].map
      (fun i => (nextState (exec i State.reset)).isSome) = [true, true, true, true, true] := by decide +kernel

/-- ResetIsAPowerOnInit. -/
theorem witness_before_power_on :
    ({ State.reset with responses := [], bpm := 0 } : State).ports = Ports.example75
      ∧ ({ State.reset with responses := [], bpm := 0 } : State).pending = []
      ∧ ({ State.reset with responses := [], bpm := 0 } : State).initFailures = 0 := by decide

/-- StepKeepsStateLegal and LegalRunsNeverStop: a legal state with a word pending, and one that is not started. -/
theorem witness_legal :
    (withWord 0x1000).Legal specParams ∧ ({ faulted with started := false } : State).Legal specParams := by
  refine ⟨⟨fun _ => ⟨fun i => ?_, by decide +kernel, by decide⟩, by decide⟩, by simp, by simp [faulted]⟩
  cases i <;> decide

/-- StepKeepsStateLegalUnderAnyParameters, with `MAX_SELECTOR` 37 at the boundary. -/
theorem witness_legal_37 :
    (small 0 0 0 0 (every 37)).Legal { specParams with maxSelector := 37 }
      ∧ (nextState (stepWith { specParams with maxSelector := 37 } (withWord 0x2026))).map (·.fault)
        = some (some (.cfgSelector .a 38)) := by
  refine ⟨⟨fun _ => ⟨fun i => ?_, by decide +kernel, by decide⟩, by decide⟩, by decide⟩
  cases i <;> decide

/-- DebugViewShowsEveryElement: a started engine, and one that is not. -/
theorem witness_started :
    State.reset.started = true ∧ (small 31 31 2 5 (every 39)).started = true
      ∧ ({ faulted with started := false } : State).started = false := by decide

/-- StepKeepsTheClosedForms: a PULSE on the wrap from 31, where the all-ones rule fires. -/
theorem witness_closed_forms :
    ({ small 31 31 2 0 (every 0) with pending := [⟨.word 0x1000, Ports.example75⟩] } : State).ClosedForms
      ∧ ({ small 31 31 2 0 (every 0) with pending := [⟨.word 0x1000, Ports.example75⟩] } : State).NextIsNotReset
      ∧ (nextState (step { small 31 31 2 0 (every 0) with pending := [⟨.word 0x1000, Ports.example75⟩] })).map
          (fun t => (t.clk, t.bc, t.tc)) = some (32, 0, 2) := by
  refine ⟨fun _ => ⟨by unfold State.BinaryFollowsClock; decide, by unfold State.TripleFollowsClock; decide⟩, ?_, by decide⟩
  intro w q rest r h
  have hw : w = 0x1000 := by cases h; rfl
  subst hw
  cases r <;> decide

/-- RunsAreDeterminedByInit: two histories with the same requests. -/
theorem witness_same_requests :
    ({ State.reset with pending := [⟨.powerOn, Ports.example75⟩, ⟨.word 0x1000, Ports.example75⟩] } : State).pending
      = ({ faulted with pending := [⟨.powerOn, Ports.example75⟩, ⟨.word 0x1000, Ports.example75⟩] } : State).pending := rfl

end Sys2Proof.Tests
end

section
/-! PROOFS. Every step keeps the state legal, under any parameters (00_scope.md R7 to R9). The lemmas are stated for
`stepWith p`, so that the machine's own step is the case `p = specParams`. -/

namespace Sys2Proof.Machine

variable {p : Params} {s t : State}

/-! `State.Legal` reads `sel`, `tonic`, `bpm`, `started` and `fault` only: an update that leaves these as they are keeps it by
definition. -/

theorem legal_accept (r : Request) (rest : List Request) (h : s.Legal p) : (accept r rest s).Legal p := h

theorem legal_respondStatus (c : BitVec 4) (h : s.Legal p) : (respondStatus c s).Legal p := h

theorem legal_refuse (h : s.Legal p) : (refuse s).Legal p := h

theorem legal_pulseSteps (snap : PerSlider Bool) (h : s.Legal p) : (pulseSteps p snap s).Legal p := h

/-- An error recorded in `FAULT` changes no configuration and leaves the engine faulted (60_exceptions.md R86). -/
theorem legal_raiseError (e : ErrorInfo) (h : s.Legal p) : (raiseError e s).Legal p :=
  ⟨h.left, fun _ => by simp⟩

/-- Storing a selector within MAX_SELECTOR keeps all of them within it (42_slider_source.md R61). -/
theorem selectorsUpTo_set {max : Nat} {v : Selector} (id : Slider) (hv : v.toNat ≤ max) (h : s.SelectorsUpTo max) :
    ({ s with sel := s.sel.set id v } : State).SelectorsUpTo max := by
  intro i
  rw [PerSlider.get_set]
  split
  · exact hv
  · exact h i

theorem legal_storeSelector {v : Selector} (id : Slider) (hv : v.toNat ≤ p.maxSelector) (h : s.Legal p) :
    ({ s with sel := s.sel.set id v } : State).Legal p := by
  obtain ⟨hconfig, hfaulted⟩ := h
  refine ⟨fun hstarted => ?_, hfaulted⟩
  obtain ⟨hsel, htonic, hbpm⟩ := hconfig hstarted
  exact ⟨selectorsUpTo_set id hv hsel, htonic, hbpm⟩

/-- A failed INIT leaves a legal state from any state: the engine is not started and faulted (45_engine_commands.md R76). -/
theorem legal_failedInit (s : State) (e : ErrorInfo) : (raiseError e (loseElements s)).Legal p :=
  ⟨by simp, by simp⟩

/-- A configuration without an error, once loaded, is a legal one (45_engine_commands.md R75). -/
theorem legal_loadConfig (s : State) {cfg : Ports} (h : configError p cfg = none) : (loadConfig cfg s).Legal p := by
  obtain ⟨hsel, hbpm, htonic⟩ := (configError_eq_none p cfg).mp h
  exact ⟨fun _ => ⟨hsel, htonic, hbpm⟩, by simp⟩

/-! The commands. -/

theorem pulseWith_keeps_legal (h : s.Legal p) (hrun : pulseWith p s = .next t) : t.Legal p := by
  rcases pulseWith_next hrun with ⟨_, rfl⟩ | ⟨_, snap, _, rfl⟩
  · exact legal_refuse h
  · exact legal_pulseSteps snap h

theorem setSliderWith_keeps_legal {id : Slider} {v : Selector} (h : s.Legal p)
    (hrun : setSliderWith p id v s = .next t) : t.Legal p := by
  rcases setSliderWith_cases p id v s with ⟨_, e⟩ | ⟨_, _, e⟩ | ⟨_, hv, e⟩ <;> rw [e] at hrun <;> cases hrun
  · exact legal_refuse h
  · exact legal_raiseError _ h
  · exact legal_respondStatus _ (legal_storeSelector id hv h)

theorem execReset_keeps_legal {r : Bool} (h : s.Legal p) (hrun : execReset r s = .next t) : t.Legal p := by
  rcases execReset_cases r s with ⟨_, e⟩ | ⟨_, e⟩ <;> rw [e] at hrun <;> cases hrun
  · exact legal_refuse h
  · exact h

/-- INIT answers a legal state whatever state it runs in. -/
theorem initWith_legal (hrun : initWith p s = .next t) : t.Legal p := by
  rcases initWith_cases p s with ⟨e, _, he⟩ | ⟨hcfg, he⟩ <;> rw [he] at hrun <;> cases hrun
  · exact legal_failedInit s e
  · exact legal_respondStatus _ (legal_loadConfig s hcfg)

theorem execWith_keeps_legal {i : Instr} (h : s.Legal p) (hrun : execWith p i s = .next t) : t.Legal p := by
  cases i with
  | pulse => exact pulseWith_keeps_legal h hrun
  | setSlider id v => exact setSliderWith_keeps_legal h hrun
  | reset r => exact execReset_keeps_legal h hrun
  | init => exact initWith_legal hrun

/-- Under any parameters a step keeps the state legal for them (10_state.md R20 to R22, 45_engine_commands.md R76). -/
theorem stepWith_keeps_legal (h : s.Legal p) (hstep : stepWith p s = .next t) : t.Legal p := by
  rw [stepWith] at hstep
  rcases stepHost_cases (execWith p) s with
    ⟨_, e⟩ | ⟨r, rest, w, _, _, _, e⟩ | ⟨r, rest, w, _, _, _, _, _, e⟩ | ⟨r, rest, w, i, _, _, _, _, e⟩ |
      ⟨r, rest, _, _, e⟩ <;> rw [e] at hstep
  · cases hstep
    exact h
  · cases hstep
    exact legal_refuse (legal_accept r rest h)
  · cases hstep
    exact legal_raiseError _ (legal_accept r rest h)
  · exact execWith_keeps_legal (legal_accept r rest h) hstep
  · exact execWith_keeps_legal (legal_accept r rest h) hstep

end Sys2Proof.Machine

/-- Settles O54: each thing a step can do keeps the state legal under any parameters, and under the spec's parameters the
commands are `exec`'s. -/
theorem stepKeepsStateLegalUnderAnyParameters : Obligations.StepKeepsStateLegalUnderAnyParameters := by
  unfold Obligations.StepKeepsStateLegalUnderAnyParameters
  exact ⟨fun _ _ _ h hstep => Sys2Proof.Machine.stepWith_keeps_legal h hstep,
    fun s => congrFun Sys2Proof.Machine.stepWith_specParams s⟩

end

section
/-! PROOFS. The state (10_state.md): what every step keeps, what each command leaves unchanged and does not read, and the reset
state. -/

namespace Sys2Proof.Machine

variable {p : Params} {s t : State} {i : Instr}

/-! ### What a command that answers a next state has done -/

/-- A SET_SLIDER that answers a next state refuses, or raises CFG_SELECTOR, or stores. -/
theorem setSliderWith_next {id : Slider} {v : Selector} (h : setSliderWith p id v s = .next t) :
    (s.fault ≠ none ∧ t = refuse s)
      ∨ (s.fault = none ∧ p.maxSelector < v.toNat ∧ t = raiseError (.cfgSelector id v) s)
      ∨ (s.fault = none ∧ v.toNat ≤ p.maxSelector
          ∧ t = respondStatus statusOk { s with sel := s.sel.set id v }) := by
  rcases setSliderWith_cases p id v s with ⟨hf, e⟩ | ⟨hf, hv, e⟩ | ⟨hf, hv, e⟩ <;> rw [e] at h <;> cases h
  · exact .inl ⟨hf, rfl⟩
  · exact .inr (.inl ⟨hf, hv, rfl⟩)
  · exact .inr (.inr ⟨hf, hv, rfl⟩)

/-- A RESET that answers a next state refuses, or clears the Clock and loads the seed when `r` is set. -/
theorem execReset_next {r : Bool} (h : execReset r s = .next t) :
    (s.fault ≠ none ∧ t = refuse s)
      ∨ (s.fault = none ∧ t = respondStatus statusOk { s with clk := 0, sr := if r then s.ports.seedIn else s.sr }) := by
  rcases execReset_cases r s with ⟨hf, e⟩ | ⟨hf, e⟩ <;> rw [e] at h <;> cases h
  · exact .inl ⟨hf, rfl⟩
  · exact .inr ⟨hf, rfl⟩

/-- An INIT that answers a next state has failed and lost the elements, or has loaded its configuration. -/
theorem initWith_next (h : initWith p s = .next t) :
    (∃ e, configError p s.ports = some e ∧ t = raiseError e (loseElements s))
      ∨ (configError p s.ports = none ∧ t = respondStatus statusOk (loadConfig s.ports s)) := by
  rcases initWith_cases p s with ⟨e, hcfg, he⟩ | ⟨hcfg, he⟩ <;> rw [he] at h <;> cases h
  · exact .inl ⟨e, hcfg, rfl⟩
  · exact .inr ⟨hcfg, rfl⟩

/-! ### The frames of the commands (45_engine_commands.md R71 to R75) -/

/-- The host's side of the boundary is not the commands' to write. -/
theorem exec_keeps_ports_pending (h : exec i s = .next t) : t.ports = s.ports ∧ t.pending = s.pending := by
  cases i with
  | pulse => rcases pulseWith_next h with ⟨_, rfl⟩ | ⟨_, _, _, rfl⟩ <;> exact ⟨rfl, rfl⟩
  | setSlider id v => rcases setSliderWith_next h with ⟨_, rfl⟩ | ⟨_, _, rfl⟩ | ⟨_, _, rfl⟩ <;> exact ⟨rfl, rfl⟩
  | reset r => rcases execReset_next h with ⟨_, rfl⟩ | ⟨_, rfl⟩ <;> exact ⟨rfl, rfl⟩
  | init => rcases initWith_next h with ⟨_, _, rfl⟩ | ⟨_, rfl⟩ <;> exact ⟨rfl, rfl⟩

/-- Only INIT writes the tonic, the tempo and whether the engine has started (10_state.md R21, R22). -/
theorem exec_keeps_tonic_bpm_started (hi : i ≠ .init) (h : exec i s = .next t) :
    t.tonic = s.tonic ∧ t.bpm = s.bpm ∧ t.started = s.started ∧ t.initFailures = s.initFailures := by
  cases i with
  | pulse => rcases pulseWith_next h with ⟨_, rfl⟩ | ⟨_, _, _, rfl⟩ <;> exact ⟨rfl, rfl, rfl, rfl⟩
  | setSlider id v =>
    rcases setSliderWith_next h with ⟨_, rfl⟩ | ⟨_, _, rfl⟩ | ⟨_, _, rfl⟩ <;> exact ⟨rfl, rfl, rfl, rfl⟩
  | reset r => rcases execReset_next h with ⟨_, rfl⟩ | ⟨_, rfl⟩ <;> exact ⟨rfl, rfl, rfl, rfl⟩
  | init => exact absurd rfl hi

theorem execPulse_keeps_sel_fault (h : exec .pulse s = .next t) : t.sel = s.sel ∧ t.fault = s.fault := by
  rcases pulseWith_next h with ⟨_, rfl⟩ | ⟨_, _, _, rfl⟩ <;> exact ⟨rfl, rfl⟩

/-- A SET_SLIDER writes its own selector register and `FAULT` only (45_engine_commands.md R73). -/
theorem execSetSlider_frame {id : Slider} {v : Selector} (h : exec (.setSlider id v) s = .next t) :
    t.clk = s.clk ∧ t.bc = s.bc ∧ t.tc = s.tc ∧ t.sr = s.sr ∧ ∀ j, j ≠ id → t.sel.get j = s.sel.get j := by
  rcases setSliderWith_next h with ⟨_, rfl⟩ | ⟨_, _, rfl⟩ | ⟨_, _, rfl⟩
  · exact ⟨rfl, rfl, rfl, rfl, fun _ _ => rfl⟩
  · exact ⟨rfl, rfl, rfl, rfl, fun _ _ => rfl⟩
  · refine ⟨rfl, rfl, rfl, rfl, fun j hj => ?_⟩
    simp [PerSlider.get_set, hj]

/-- A RESET writes the Clock, and the register when it reseeds (45_engine_commands.md R74). -/
theorem execReset_frame {r : Bool} (h : exec (.reset r) s = .next t) :
    t.bc = s.bc ∧ t.tc = s.tc ∧ t.sel = s.sel ∧ t.fault = s.fault ∧ (r = false → t.sr = s.sr) := by
  rcases execReset_next h with ⟨_, rfl⟩ | ⟨_, rfl⟩
  · exact ⟨rfl, rfl, rfl, rfl, fun _ => rfl⟩
  · refine ⟨rfl, rfl, rfl, rfl, fun hr => ?_⟩
    simp [hr]

/-! ### Non-interference -/

/-- A change `f` of the state that a guarded command does not see: `f` leaves `FAULT` and commutes with the refusal, so the
whole command answers up to `f` when its body, run unfaulted, does. -/
theorem unlessFaulted_next_map {f : State → State} {o o' : Host.Outcome State Fault Refusal}
    (hfault : (f s).fault = s.fault) (hrefuse : refuse (f s) = f (refuse s))
    (hbody : o = .next t → o' = .next (f t)) (h : unlessFaulted s o = .next t) :
    unlessFaulted (f s) o' = .next (f t) := by
  by_cases hf : s.fault = none
  · rw [unlessFaulted_of_none _ hf] at h
    rw [unlessFaulted_of_none _ (hfault.trans hf)]
    exact hbody h
  · rw [unlessFaulted_of_faulted _ hf] at h
    cases h
    rw [unlessFaulted_of_faulted _ (hfault ▸ hf), hrefuse]

/-- The same state with another tempo. -/
def State.withBpm (b : BitVec 32) (s : State) : State := { s with bpm := b }

/-- The slider sources do not include the tempo (42_slider_source.md R60). -/
theorem snapshot_withBpm (b : BitVec 32) (s : State) : snapshot (s.withBpm b) = snapshot s := rfl

/-- A command other than INIT does not read the tempo (10_state.md R22). -/
theorem exec_withBpm (b : BitVec 32) (hi : i ≠ .init) (h : exec i s = .next t) :
    exec i (s.withBpm b) = .next (t.withBpm b) := by
  cases i with
  | pulse =>
    refine unlessFaulted_next_map (f := State.withBpm b) rfl rfl (fun hbody => ?_) h
    rw [snapshot_withBpm]
    cases hs : snapshot s with
    | none => simp [hs] at hbody
    | some snap =>
      rw [hs] at hbody
      cases hbody
      rfl
  | setSlider id v =>
    refine unlessFaulted_next_map (f := State.withBpm b) rfl rfl (fun hbody => ?_) h
    cases hc : selectorCheck specParams id v <;> rw [hc] at hbody <;> cases hbody <;> rfl
  | reset r =>
    refine unlessFaulted_next_map (f := State.withBpm b) rfl rfl (fun hbody => ?_) h
    cases hbody
    cases r <;> rfl
  | init => exact absurd rfl hi

/-! ### A faulted engine -/

/-- The same state elements with the host's side of the boundary moved: other ports and requests, and `rs` answered since. -/
def State.afterAnswers (q : Ports) (rest : List Request) (rs : List Response) (s : State) : State :=
  { s with ports := q, pending := rest, responses := rs ++ s.responses }

theorem State.afterAnswers_afterAnswers (q q₁ : Ports) (rest rest₁ : List Request) (rs rs₁ : List Response) (s : State) :
    (s.afterAnswers q₁ rest₁ rs₁).afterAnswers q rest rs = s.afterAnswers q rest (rs ++ rs₁) := by
  simp [afterAnswers]

/-- Until a power-on comes, a step of a faulted engine moves the host's side of the boundary only: it takes the next request,
if there is one, and answers FAULTED (60_exceptions.md R87). -/
theorem step_of_faulted (hf : s.fault ≠ none) (hp : ∀ r ∈ s.pending, r.command ≠ .powerOn) :
    ∃ q rest rs, step s = .next (s.afterAnswers q rest rs)
      ∧ (∀ r ∈ rest, r.command ≠ .powerOn) ∧ ∀ r ∈ rs, r.status = statusFaulted := by
  rcases step_cases s with ⟨hq, e⟩ | ⟨r, rest, w, hq, _, _, e⟩ | ⟨_, _, _, _, _, _, hn, _⟩ |
      ⟨_, _, _, _, _, _, hn, _⟩ | ⟨r, rest, hq, hc, _⟩
  · exact ⟨s.ports, s.pending, [], e, hp, by simp⟩
  · refine ⟨r.ports, rest, [⟨statusFaulted, 0, 0⟩], e, fun r' hr' => hp r' ?_, by simp⟩
    exact hq ▸ List.mem_cons_of_mem r hr'
  · exact absurd hn hf
  · exact absurd hn hf
  · exact absurd hc (hp r (hq ▸ List.mem_cons_self))

theorem run_succ_of_step {n : Nat} (h : step s = .next t) : run (n + 1) s = run n t := by
  rw [run, h]

/-- Any number of steps of a faulted engine without a power-on move the host's side of the boundary only, and every answer is
FAULTED. -/
theorem run_of_faulted (n : Nat) : ∀ s : State, s.fault ≠ none → (∀ r ∈ s.pending, r.command ≠ .powerOn) →
    ∃ q rest rs, run n s = .next (s.afterAnswers q rest rs)
      ∧ ∀ r ∈ rs, r.status = statusFaulted := by
  induction n with
  | zero => exact fun s _ _ => ⟨s.ports, s.pending, [], rfl, by simp⟩
  | succ n ih =>
    intro s hf hp
    obtain ⟨q₁, rest₁, rs₁, hstep, hp₁, hrs₁⟩ := step_of_faulted hf hp
    obtain ⟨q, rest, rs, hrun, hrs⟩ := ih (s.afterAnswers q₁ rest₁ rs₁) hf hp₁
    refine ⟨q, rest, rs ++ rs₁, ?_, fun r hr => ?_⟩
    · rw [run_succ_of_step hstep, hrun, State.afterAnswers_afterAnswers]
    · exact (List.mem_append.mp hr).elim (hrs r) (hrs₁ r)

/-! ### The reset state -/

/-- R75's example is a configuration INIT accepts. -/
theorem configError_example75 : configError specParams Ports.example75 = none := by
  refine (configError_eq_none specParams Ports.example75).mpr ⟨fun i => ?_, by decide, by decide +kernel⟩
  cases i <;> decide

/-- The power-on INIT of R75's example answers the reset state (70_reset_and_hazards.md R96). -/
theorem execInit_eq_reset (hports : s.ports = Ports.example75) (hresponses : s.responses = []) (hpending : s.pending = [])
    (hfailures : s.initFailures = 0) : exec .init s = .next State.reset := by
  rcases initWith_cases specParams s with ⟨e, hcfg, _⟩ | ⟨_, hrun⟩
  · rw [hports, configError_example75] at hcfg
    cases hcfg
  · refine hrun.trans (congrArg Host.Outcome.next ?_)
    simp [respondStatus, respond, loadConfig, srLoad, State.reset, statusOk, hports, hresponses, hpending, hfailures]

theorem execInit_legal (h : exec .init s = .next t) : t.Legal specParams := initWith_legal h

end Sys2Proof.Machine

open Sys2Proof.Machine

/-- Settles O53: the machine's step is the step under the spec's parameters, and a step keeps the state legal under any. -/
theorem stepKeepsStateLegal : Obligations.StepKeepsStateLegal := by
  unfold Obligations.StepKeepsStateLegal
  intro s t h hstep
  rw [← stepWith_specParams] at hstep
  exact stepWith_keeps_legal h hstep

/-- Settles O13: the whole run moves the host's side of the boundary only. -/
theorem faultedRunStaysFaulted : Obligations.FaultedRunStaysFaulted := by
  unfold Obligations.FaultedRunStaysFaulted
  intro n s e hf hp
  obtain ⟨q, rest, rs, hrun, hrs⟩ := run_of_faulted n s (by simp [hf]) hp
  exact ⟨s.afterAnswers q rest rs, rs, hrun, hf, by simp [State.GoodEnd, State.afterAnswers, hf],
    State.SameElements.refl s, rfl, rfl, hrs⟩

/-- Settles O48, from the frame of each command. -/
theorem commandFrames : Obligations.CommandFrames := by
  unfold Obligations.CommandFrames
  intro i s t h
  refine ⟨exec_keeps_ports_pending h, fun hi => exec_keeps_tonic_bpm_started hi h, ?_, ?_, ?_⟩
  · rintro rfl
    exact execPulse_keeps_sel_fault h
  · rintro id v rfl
    exact execSetSlider_frame h
  · rintro r rfl
    exact execReset_frame h

/-- Settles O50: each command but INIT commutes with a change of the tempo. -/
theorem bpmIsNeverRead : Obligations.BpmIsNeverRead := by
  unfold Obligations.BpmIsNeverRead
  intro i s t b hi h
  exact exec_withBpm b hi h

/-- Settles O51: R75's example passes the configuration check, so INIT loads it. -/
theorem resetIsAPowerOnInit : Obligations.ResetIsAPowerOnInit := by
  unfold Obligations.ResetIsAPowerOnInit
  exact ⟨rfl, rfl, rfl, rfl, rfl, fun _ => execInit_eq_reset⟩

/-- Settles O52: the reset state is what an INIT answers, and INIT answers legal states only. -/
theorem resetStateIsLegal : Obligations.ResetStateIsLegal := by
  unfold Obligations.ResetStateIsLegal
  exact execInit_legal (execInit_eq_reset (s := { State.reset with responses := [] }) rfl rfl rfl rfl)

end

section
/-! PROOFS. The encoding (30_encoding.md): the decoder and the encoder are each other's inverse on the legal words, which words
are legal and how many, how a command of the host reaches the one it names, the responses and the ports. -/

namespace Sys2Proof

/-! ### The fields of a word -/

/-- A word is its fields of format R (30_encoding.md R42). -/
theorem eq_iff_fields_formatR (v w : CommandWord) :
    v = w ↔ opcodeField v = opcodeField w ∧ v.extractLsb' 1 11 = w.extractLsb' 1 11 ∧ v.getLsbD 0 = w.getLsbD 0 := by
  simp only [opcodeField, BitVec.toNat_eq, BitVec.extractLsb'_toNat, Nat.shiftRight_eq_div_pow, BitVec.getLsbD,
    Nat.testBit_zero, decide_eq_decide]
  omega

/-- A word is its fields of format S (30_encoding.md R41). -/
theorem eq_iff_fields_formatS (v w : CommandWord) :
    v = w ↔ opcodeField v = opcodeField w ∧ v.extractLsb' 9 3 = w.extractLsb' 9 3
      ∧ v.extractLsb' 6 3 = w.extractLsb' 6 3 ∧ v.extractLsb' 0 6 = w.extractLsb' 0 6 := by
  simp only [opcodeField, BitVec.toNat_eq, BitVec.extractLsb'_toNat, Nat.shiftRight_eq_div_pow]
  omega

/-- The word is of the command's format and holds its operands (30_encoding.md R40 to R42); no word is INIT's (R39). -/
def Instr.HasFields (w : CommandWord) : Instr → Prop
  | .pulse => opcodeField w = 1#4 ∧ w.extractLsb' 0 12 = 0#12
  | .setSlider id sel =>
    opcodeField w = 2#4 ∧ w.extractLsb' 6 3 = 0#3 ∧ w.extractLsb' 9 3 = id.id ∧ w.extractLsb' 0 6 = sel
  | .reset r => opcodeField w = 3#4 ∧ w.extractLsb' 1 11 = 0#11 ∧ w.getLsbD 0 = r
  | .init => False

/-- The operands and the zero fields leave no bit of a command's word open. -/
theorem Instr.HasFields.unique {i : Instr} {v w : CommandWord} (hv : i.HasFields v) (hw : i.HasFields w) : v = w := by
  cases i with
  | pulse =>
    obtain ⟨hop, hzero⟩ := hv
    obtain ⟨hop', hzero'⟩ := hw
    simp only [opcodeField, BitVec.toNat_eq, BitVec.extractLsb'_toNat, Nat.shiftRight_eq_div_pow] at *
    omega
  | setSlider id sel =>
    obtain ⟨hop, hzero, hid, hsel⟩ := hv
    obtain ⟨hop', hzero', hid', hsel'⟩ := hw
    rw [eq_iff_fields_formatS, hop, hid, hzero, hsel, hop', hid', hzero', hsel']
    exact ⟨rfl, rfl, rfl, rfl⟩
  | reset r =>
    obtain ⟨hop, hzero, hr⟩ := hv
    obtain ⟨hop', hzero', hr'⟩ := hw
    rw [eq_iff_fields_formatR, hop, hzero, hr, hop', hzero', hr']
    exact ⟨rfl, rfl, rfl⟩
  | init => exact hv.elim

/-! ### The decoder and the encoder by the fields -/

theorem Slider.ofId_eq_iff (n : BitVec 3) (i : Slider) : Slider.ofId n = i ↔ n = i.id :=
  ⟨fun h => by rw [← h, Slider.id_ofId], fun h => by rw [h, Slider.ofId_id]⟩

theorem decodePulse_eq_command_iff (w : CommandWord) (i : Instr) :
    decodePulse w = .command i ↔ w.extractLsb' 0 12 = 0#12 ∧ .pulse = i := by
  unfold decodePulse
  split <;> simp_all

theorem decodeSetSlider_eq_command_iff (w : CommandWord) (i : Instr) :
    decodeSetSlider w = .command i
      ↔ w.extractLsb' 6 3 = 0#3 ∧ .setSlider (Slider.ofId (w.extractLsb' 9 3)) (w.extractLsb' 0 6) = i := by
  unfold decodeSetSlider
  split <;> simp_all

theorem decodeReset_eq_command_iff (w : CommandWord) (i : Instr) :
    decodeReset w = .command i ↔ w.extractLsb' 1 11 = 0#11 ∧ .reset (w.getLsbD 0) = i := by
  unfold decodeReset
  split <;> simp_all

/-- The decoder answers a command exactly on the words that hold its fields (30_encoding.md R48). The split is on the opcode
map of R46: in each branch one command's fields are possible, in the last none. -/
theorem decode_eq_command_iff (w : CommandWord) (i : Instr) : decode w = .command i ↔ i.HasFields w := by
  unfold decode
  split_ifs with hpulse hset hreset
  · rw [decodePulse_eq_command_iff]
    cases i <;> simp [Instr.HasFields, hpulse]
  · rw [decodeSetSlider_eq_command_iff]
    cases i <;> simp [Instr.HasFields, hset, Slider.ofId_eq_iff]
  · rw [decodeReset_eq_command_iff]
    cases i <;> simp [Instr.HasFields, hreset]
  · cases i <;> simp_all [Instr.HasFields]

/-- The word of SET_SLIDER as a sum (30_encoding.md R49): its three parts have no bit in common. -/
theorem encode_setSlider (id : Slider) (sel : Selector) :
    encode (.setSlider id sel) = some (BitVec.ofNat 16 (0x2000 + id.id.toNat * 2 ^ 9 + sel.toNat)) := by
  have hhigh : (0x2000 ||| (id.id.setWidth 16 <<< 9) : CommandWord).toNat = (16 + id.id.toNat) <<< 9 := by
    cases id <;> rfl
  have hsel : sel.toNat < 2 ^ 9 := sel.isLt.trans (by decide)
  have hid : id.id.toNat < 2 ^ 3 := id.id.isLt
  refine congrArg some (BitVec.eq_of_toNat_eq ?_)
  rw [BitVec.toNat_or, hhigh, BitVec.toNat_setWidth_of_le (by decide), ← Nat.shiftLeft_add_eq_or_of_lt hsel,
    BitVec.toNat_ofNat, Nat.shiftLeft_eq]
  omega

/-- The encoder writes the command's fields (30_encoding.md R40 to R42). -/
theorem hasFields_of_encode {i : Instr} {w : CommandWord} (h : encode i = some w) : i.HasFields w := by
  cases i with
  | pulse =>
    cases h
    exact ⟨by decide, by decide⟩
  | setSlider id sel =>
    cases (encode_setSlider id sel).symm.trans h
    have hid : id.id.toNat < 2 ^ 3 := id.id.isLt
    simp only [Instr.HasFields, opcodeField, BitVec.toNat_eq, BitVec.extractLsb'_toNat, BitVec.toNat_ofNat,
      Nat.shiftRight_eq_div_pow]
    omega
  | reset r =>
    cases h
    cases r <;> exact ⟨by decide, by decide, by decide⟩
  | init => cases h

/-- Every well-formed command has a word, and no other has (30_encoding.md R39). -/
theorem exists_encode_iff (i : Instr) : (∃ w, encode i = some w) ↔ i.wellFormed = true := by
  cases i <;> simp [encode, Instr.wellFormed]

theorem Instr.HasFields.wellFormed {i : Instr} {w : CommandWord} (h : i.HasFields w) : i.wellFormed = true := by
  cases i with
  | init => exact h.elim
  | _ => rfl

/-- The decoder and the encoder are each other's inverse: a word decodes to the command whose word it is. -/
theorem decode_eq_command_iff_encode (w : CommandWord) (i : Instr) : decode w = .command i ↔ encode i = some w := by
  rw [decode_eq_command_iff]
  refine ⟨fun h => ?_, hasFields_of_encode⟩
  obtain ⟨v, hv⟩ := (exists_encode_iff i).mpr h.wellFormed
  rw [hv, (hasFields_of_encode hv).unique h]

/-! ### The legal words -/

theorem decode_ne_init (w : CommandWord) : decode w ≠ .command .init := by
  simp [decode_eq_command_iff_encode, encode]

theorem decode_eq_pulse_iff (w : CommandWord) : decode w = .command .pulse ↔ w = 0x1000 := by
  rw [decode_eq_command_iff_encode]
  exact Option.some_inj.trans eq_comm

/-- The mask and match of SET_SLIDER's table row (opcode_table.json) test the opcode and the zero field. -/
theorem mask_formatS_iff (w : CommandWord) :
    w &&& 0xF1C0 = 0x2000 ↔ opcodeField w = 2#4 ∧ w.extractLsb' 6 3 = 0#3 := by
  have hop : ∀ b : BitVec 4, b &&& 15#4 = b := fun _ => BitVec.and_allOnes
  have hzero : ∀ b : BitVec 3, b &&& 7#3 = b := fun _ => BitVec.and_allOnes
  rw [eq_iff_fields_formatS]
  simp [opcodeField, BitVec.extractLsb'_and, hop, hzero]

/-- The mask and match of RESET's table row (opcode_table.json) test the opcode and the zero field. -/
theorem mask_formatR_iff (w : CommandWord) :
    w &&& 0xFFFE = 0x3000 ↔ opcodeField w = 3#4 ∧ w.extractLsb' 1 11 = 0#11 := by
  have hop : ∀ b : BitVec 4, b &&& 15#4 = b := fun _ => BitVec.and_allOnes
  have hzero : ∀ b : BitVec 11, b &&& 2047#11 = b := fun _ => BitVec.and_allOnes
  rw [eq_iff_fields_formatR]
  simp [opcodeField, BitVec.extractLsb'_and, hop, hzero]

/-- The id and the selector are free in a SET_SLIDER word. -/
theorem exists_decode_eq_setSlider_iff (w : CommandWord) :
    (∃ id sel, decode w = .command (.setSlider id sel)) ↔ opcodeField w = 2#4 ∧ w.extractLsb' 6 3 = 0#3 := by
  constructor
  · rintro ⟨id, sel, h⟩
    obtain ⟨hop, hzero, _, _⟩ := (decode_eq_command_iff w _).mp h
    exact ⟨hop, hzero⟩
  · rintro ⟨hop, hzero⟩
    exact ⟨_, _, (decode_eq_command_iff w _).mpr ⟨hop, hzero, (Slider.id_ofId _).symm, rfl⟩⟩

/-- The bit `r` is free in a RESET word. -/
theorem exists_decode_eq_reset_iff (w : CommandWord) :
    (∃ r, decode w = .command (.reset r)) ↔ opcodeField w = 3#4 ∧ w.extractLsb' 1 11 = 0#11 := by
  constructor
  · rintro ⟨r, h⟩
    obtain ⟨hop, hzero, _⟩ := (decode_eq_command_iff w _).mp h
    exact ⟨hop, hzero⟩
  · rintro ⟨hop, hzero⟩
    exact ⟨_, (decode_eq_command_iff w _).mpr ⟨hop, hzero, rfl⟩⟩

/-- The decoder is total: a word is illegal exactly when it is none of the three commands' (30_encoding.md R47, R48). -/
theorem exists_decode_eq_illegal_iff (w : CommandWord) :
    (∃ why, decode w = .illegal why) ↔ decode w ≠ .command .pulse
      ∧ (¬ ∃ id sel, decode w = .command (.setSlider id sel)) ∧ ¬ ∃ r, decode w = .command (.reset r) := by
  cases hd : decode w with
  | illegal why => simp
  | command i =>
    cases i with
    | init => exact absurd hd (decode_ne_init w)
    | _ => simp

/-! ### How many words are legal -/

/-- Every selector value, 0 to 63. -/
def allSelectors : List Selector := (List.finRange 64).map BitVec.ofFin

/-- The commands that have a word, each once. -/
def wordCommands : List Instr :=
  [.pulse] ++ (Slider.all ×ˢ allSelectors).map (fun q => .setSlider q.1 q.2) ++ [.reset false, .reset true]

theorem mem_wordCommands_iff (i : Instr) : i ∈ wordCommands ↔ i.wellFormed = true := by
  have hsel : ∀ v : Selector, v ∈ allSelectors := fun v =>
    List.mem_map.mpr ⟨v.toFin, List.mem_finRange _, rfl⟩
  cases i <;> simp [wordCommands, Instr.wellFormed, Slider.mem_all, hsel]

theorem nodup_wordCommands : wordCommands.Nodup := by
  have hsel : allSelectors.Nodup := (List.nodup_finRange 64).map fun _ _ h => congrArg BitVec.toFin h
  have hset : ((Slider.all ×ˢ allSelectors).map fun q => Instr.setSlider q.1 q.2).Nodup :=
    ((show Slider.all.Nodup by decide).product hsel).map fun q q' h => by
      obtain ⟨hid, hv⟩ := Instr.setSlider.inj h
      exact Prod.ext hid hv
  simp +contextual [wordCommands, List.nodup_append, hset, eq_comm]

/-- What passes a test that no illegal word passes is a command. -/
theorem exists_command_of_test {f : Decoded → Bool} (hf : ∀ why, f (.illegal why) = false) {d : Decoded} (h : f d = true) :
    ∃ i, d = .command i := by
  cases d with
  | command i => exact ⟨i, rfl⟩
  | illegal why => simp [hf] at h

/-- Two words that pass such a test do not decode to one command. -/
theorem nodup_map_decode {f : Decoded → Bool} (hf : ∀ why, f (.illegal why) = false) :
    (((List.range 65536).filter fun n => f (decode (BitVec.ofNat 16 n))).map
      fun n => decode (BitVec.ofNat 16 n)).Nodup := by
  refine List.Nodup.map_on (fun n hn m hm h => ?_) (List.nodup_range.filter _)
  rw [List.mem_filter, List.mem_range] at hn hm
  obtain ⟨hn, htest⟩ := hn
  obtain ⟨i, hi⟩ := exists_command_of_test hf htest
  have hword : BitVec.ofNat 16 n = BitVec.ofNat 16 m :=
    ((decode_eq_command_iff _ i).mp hi).unique ((decode_eq_command_iff _ i).mp (h.symm.trans hi))
  simpa [Nat.mod_eq_of_lt hn, Nat.mod_eq_of_lt hm.left] using congrArg BitVec.toNat hword

/-- Counting the words by what they decode to is counting the commands, because each command has one word. -/
theorem length_filter_decode {f : Decoded → Bool} (hf : ∀ why, f (.illegal why) = false) :
    ((List.range 65536).filter fun n => f (decode (BitVec.ofNat 16 n))).length
      = wordCommands.countP fun i => f (.command i) := by
  have hcommands : ((wordCommands.filter fun i => f (.command i)).map Decoded.command).Nodup :=
    (nodup_wordCommands.filter _).map fun _ _ => Decoded.command.inj
  have hsame := (List.perm_ext_iff_of_nodup (nodup_map_decode hf) hcommands).mpr fun d => by
    simp only [List.mem_map, List.mem_filter, List.mem_range, mem_wordCommands_iff]
    constructor
    · rintro ⟨n, ⟨_, hn⟩, rfl⟩
      obtain ⟨i, hi⟩ := exists_command_of_test hf hn
      exact ⟨i, ⟨((decode_eq_command_iff _ i).mp hi).wellFormed, hi ▸ hn⟩, hi.symm⟩
    · rintro ⟨i, ⟨hi, hfi⟩, rfl⟩
      obtain ⟨w, hw⟩ := (exists_encode_iff i).mpr hi
      have hd : decode (BitVec.ofNat 16 w.toNat) = .command i := by
        rw [BitVec.ofNat_toNat, BitVec.setWidth_eq]
        exact (decode_eq_command_iff_encode w i).mpr hw
      exact ⟨w.toNat, ⟨w.isLt, hd ▸ hfi⟩, hd⟩
  simpa [List.countP_eq_length_filter] using hsame.length_eq

namespace Machine

variable {s t : State} {i : Instr} {w : CommandWord} {q : Ports}

/-! ### From a request of the host to its command -/

theorem step_of_pending {r : Request} {rest : List Request} (h : s.pending = r :: rest) :
    step s = issue exec r.command (accept r rest s) := by
  simp [step, stepHost, h]

theorem issue_powerOn : issue exec .powerOn s = exec .init s := rfl

theorem issue_word : issue exec (.word w) s = issueWord exec w s := rfl

/-- A command that is a word is refused while faulted, as its word is (60_exceptions.md R87). -/
theorem exec_of_faulted (hi : i ≠ .init) (hf : s.fault ≠ none) : exec i s = .next (refuse s) := by
  cases i with
  | init => exact absurd rfl hi
  | _ => exact unlessFaulted_of_faulted _ hf

/-- A word runs the command it decodes to, on a faulted engine too. -/
theorem issue_word_of_decode (hd : decode w = .command i) : issue exec (.word w) s = exec i s := by
  rw [issue_word]
  rcases issueWord_cases exec w s with ⟨hf, e⟩ | ⟨_, j, hj, e⟩ | ⟨_, why, hw, _⟩
  · have hi : i ≠ .init := fun h => decode_ne_init w (h ▸ hd)
    exact e.trans (exec_of_faulted hi hf).symm
  · cases hd.symm.trans hj
    exact e
  · cases hd.symm.trans hw

/-- An illegal word raises IllegalCommand on an engine that is not faulted (30_encoding.md R47). -/
theorem issue_word_of_illegal {why : IllegalWord} (hf : s.fault = none) (hd : decode w = .illegal why) :
    issue exec (.word w) s = .next (raiseError (.illegalCommand w) s) := by
  simp [issue_word, issueWord, hf, hd]

/-- A table word issues the command that `decodeTableWord` reads from it (log 12). -/
theorem issue_tableCommand {nbits w : Nat} (h : decodeTableWord nbits w = some i) :
    issue exec (tableCommand nbits w) s = exec i s := by
  by_cases hn : nbits = 0
  · simp only [decodeTableWord, hn, if_true, Option.some_inj] at h
    simp [tableCommand, hn, issue_powerOn, ← h]
  · cases hd : decode (tableWord nbits w) with
    | illegal why => simp [decodeTableWord, hn, hd] at h
    | command j =>
      simp only [decodeTableWord, hn, hd, if_false, Option.some_inj] at h
      rw [tableCommand, if_neg hn, issue_word_of_decode hd, h]

/-! ### The responses (30_encoding.md R45) -/

theorem ErrorInfo.code_le (e : ErrorInfo) : e.code.toNat ≤ 5 := by cases e <;> simp [ErrorInfo.code]

/-- What R45 asks of a response: a status of R84's table, and zeros outside the OK response of a PULSE. -/
def Response.Conforms (isPulse : Prop) (a : Response) : Prop :=
  a.status.toNat ≤ 5 ∧ (a.status ≠ 0x0 ∨ ¬ isPulse → a.degree = 0 ∧ a.freq = 0)

theorem Response.Conforms.mono {P Q : Prop} {a : Response} (hPQ : P → Q) (h : a.Conforms P) : a.Conforms Q :=
  ⟨h.left, fun hne => h.right (hne.imp_right (mt hPQ))⟩

/-- A status alone is the response of every command but an OK PULSE. -/
theorem Response.conforms_of_status {P : Prop} {c : BitVec 4} (hc : c.toNat ≤ 5) : Response.Conforms P ⟨c, 0, 0⟩ :=
  ⟨hc, fun _ => ⟨rfl, rfl⟩⟩

theorem exec_answers (h : exec i s = .next t) :
    ∃ a : Response, t.responses = a :: s.responses ∧ a.Conforms (i = .pulse) := by
  cases i with
  | pulse =>
    rcases pulseWith_next h with ⟨_, rfl⟩ | ⟨_, snap, _, rfl⟩
    · exact ⟨_, rfl, Response.conforms_of_status (by decide)⟩
    · exact ⟨_, pulseSteps_responses s specParams snap, by simp [statusOk], fun hne => by simp [statusOk] at hne⟩
  | setSlider id v =>
    rcases setSliderWith_next h with ⟨_, rfl⟩ | ⟨_, _, rfl⟩ | ⟨_, _, rfl⟩
    · exact ⟨_, rfl, Response.conforms_of_status (by decide)⟩
    · exact ⟨_, rfl, Response.conforms_of_status (ErrorInfo.code_le _)⟩
    · exact ⟨_, rfl, Response.conforms_of_status (by decide)⟩
  | reset r =>
    rcases execReset_next h with ⟨_, rfl⟩ | ⟨_, rfl⟩ <;>
      exact ⟨_, rfl, Response.conforms_of_status (by decide)⟩
  | init =>
    rcases initWith_next h with ⟨e, _, rfl⟩ | ⟨_, rfl⟩
    · exact ⟨_, rfl, Response.conforms_of_status e.code_le⟩
    · exact ⟨_, rfl, Response.conforms_of_status (by decide)⟩

theorem issue_answers {c : HostCommand} (h : issue exec c s = .next t) :
    t.pending = s.pending ∧ ∃ a : Response, t.responses = a :: s.responses ∧ a.Conforms (c = .word 0x1000) := by
  cases c with
  | powerOn =>
    rw [issue_powerOn] at h
    obtain ⟨a, ha, hok⟩ := exec_answers h
    exact ⟨(exec_keeps_ports_pending h).right, a, ha, hok.mono nofun⟩
  | word w =>
    rw [issue_word] at h
    rcases issueWord_cases exec w s with ⟨_, e⟩ | ⟨_, i, hd, e⟩ | ⟨_, _, _, e⟩ <;> rw [e] at h
    · cases h
      exact ⟨rfl, _, rfl, Response.conforms_of_status (by decide)⟩
    · obtain ⟨a, ha, hok⟩ := exec_answers h
      refine ⟨(exec_keeps_ports_pending h).right, a, ha, hok.mono fun hi => congrArg HostCommand.word ?_⟩
      exact (decode_eq_pulse_iff w).mp (hi ▸ hd)
    · cases h
      exact ⟨rfl, _, rfl, Response.conforms_of_status (ErrorInfo.code_le _)⟩

/-! ### The ports (30_encoding.md R43, R44) -/

/-- The same state with other values on the ports. -/
def State.withPorts (q : Ports) (s : State) : State := { s with ports := q }

/-- The slider sources do not include the ports (42_slider_source.md R60). -/
theorem snapshot_withPorts (q : Ports) (s : State) : snapshot (s.withPorts q) = snapshot s := rfl

/-- A command other than INIT does not read the ports, but for the seed port, which a reseeding RESET reads. -/
theorem exec_withPorts (hi : i ≠ .init) (hseed : i = .reset true → q.seedIn = s.ports.seedIn) (h : exec i s = .next t) :
    exec i (s.withPorts q) = .next (t.withPorts q) := by
  cases i with
  | pulse =>
    refine unlessFaulted_next_map (f := State.withPorts q) rfl rfl (fun hbody => ?_) h
    rw [snapshot_withPorts]
    cases hs : snapshot s with
    | none => simp [hs] at hbody
    | some snap =>
      rw [hs] at hbody
      cases hbody
      rfl
  | setSlider id v =>
    refine unlessFaulted_next_map (f := State.withPorts q) rfl rfl (fun hbody => ?_) h
    cases hc : selectorCheck specParams id v <;> rw [hc] at hbody <;> cases hbody <;> rfl
  | reset r =>
    refine unlessFaulted_next_map (f := State.withPorts q) rfl rfl (fun hbody => ?_) h
    cases hbody
    cases r with
    | false => rfl
    | true => simp [State.withPorts, hseed rfl, respondStatus, respond, srLoad, clockReset]
  | init => exact absurd rfl hi

/-! ### The assembler's lines (30_encoding.md R49) -/

/-- The request of a SETSL line carries the word of SET_SLIDER. -/
theorem decode_setsl_word (id : Slider) (sel : Selector) :
    decode (BitVec.ofNat 16 (0x2000 + id.id.toNat * 2 ^ 9 + sel.toNat)) = .command (.setSlider id sel) :=
  (decode_eq_command_iff_encode _ _).mpr (encode_setSlider id sel)

end Machine

end Sys2Proof

open Sys2Proof Sys2Proof.Machine

/-- Settles O4: the decoder is the inverse of the encoder, which gives every well-formed command a word. -/
theorem decodeEncodeAgree : Obligations.DecodeEncodeAgree := by
  unfold Obligations.DecodeEncodeAgree
  intro i hi
  obtain ⟨w, hw⟩ := (exists_encode_iff i).mpr hi
  exact ⟨w, hw, (decode_eq_command_iff_encode w i).mpr hw⟩

/-- Settles O2: a command's words are those of its fields, which its mask and match test, and the other words are illegal. -/
theorem decodeFollowsMaskAndMatch : Obligations.DecodeFollowsMaskAndMatch := by
  unfold Obligations.DecodeFollowsMaskAndMatch
  intro w
  have hmask : w &&& 0xFFFF = w := BitVec.and_allOnes
  simp only [hmask, exists_decode_eq_illegal_iff, exists_decode_eq_setSlider_iff, exists_decode_eq_reset_iff,
    mask_formatS_iff, mask_formatR_iff, ne_eq, decode_eq_pulse_iff, and_self]

/-- Settles O5: a word that decodes to a command has its fields, and is the only one that has them. -/
theorem encodeDecodeAgree : Obligations.EncodeDecodeAgree := by
  unfold Obligations.EncodeDecodeAgree
  intro w i h
  exact ⟨((decode_eq_command_iff w i).mp h).wellFormed, (decode_eq_command_iff_encode w i).mp h⟩

/-- Settles O15: a step with a request pending issues it, and each way a command is issued ends in one response. -/
theorem everyCommandAnswersOnce : Obligations.EveryCommandAnswersOnce := by
  unfold Obligations.EveryCommandAnswersOnce
  intro s t r rest hq h
  obtain ⟨hpending, a, ha, hstatus, hzero⟩ := issue_answers ((step_of_pending hq).symm.trans h)
  exact ⟨hpending, a, ha, hstatus, hzero⟩

/-- Settles O49: each command but INIT commutes with a change of the ports that it may not read. -/
theorem portsReadOnlyWhereStated : Obligations.PortsReadOnlyWhereStated := by
  unfold Obligations.PortsReadOnlyWhereStated
  intro i s t q hi hseed h
  exact exec_withPorts hi hseed h

/-- Settles O1: by the fields of format P, which the word 0x1000 alone has. -/
theorem pulseWordIsOnly1000 : Obligations.PulseWordIsOnly1000 := by
  unfold Obligations.PulseWordIsOnly1000
  exact fun w => ⟨decode_eq_command_iff w .pulse, decode_eq_pulse_iff w⟩

/-- Settles O3: INIT has no fields and no word. -/
theorem initHasNoWord : Obligations.InitHasNoWord := by
  unfold Obligations.InitHasNoWord
  exact ⟨decode_ne_init, rfl⟩

/-- Settles O6: the legal words are as many as the commands that have a word, and those are counted in their list. -/
theorem legalWordCounts : Obligations.LegalWordCounts := by
  unfold Obligations.LegalWordCounts
  intro count
  have hcount : ∀ f : Decoded → Bool, (∀ why, f (.illegal why) = false) →
      count f = wordCommands.countP fun i => f (.command i) := fun _ => length_filter_decode
  clear_value count
  refine ⟨?_, ?_, ?_, ?_, ?_⟩ <;> (rw [hcount _ fun _ => rfl]; decide +kernel)

/-- Settles O9: the request that the table word places is taken by the step, on the state as it was. -/
theorem placedTableWordRuns : Obligations.PlacedTableWordRuns := by
  unfold Obligations.PlacedTableWordRuns
  intro s nbits w i _ h
  exact (step_of_pending rfl).trans (issue_tableCommand h)

/-- Settles O11: an illegal word of an unfaulted engine raises IllegalCommand. -/
theorem illegalWordRaises : Obligations.IllegalWordRaises := by
  unfold Obligations.IllegalWordRaises
  intro s w q rest why hq hf hd
  exact (step_of_pending hq).trans (issue_word_of_illegal hf hd)

/-- Settles O16: each line's word decodes to the command the line names, and INIT's line is the power-on. -/
theorem assemblerLinesRunTheirCommands : Obligations.AssemblerLinesRunTheirCommands := by
  unfold Obligations.AssemblerLinesRunTheirCommands
  intro s idle rest
  exact ⟨(step_of_pending rfl).trans (issue_word_of_decode (by decide)),
    fun id n => (step_of_pending rfl).trans (issue_word_of_decode (decode_setsl_word id n)),
    (step_of_pending rfl).trans (issue_word_of_decode (by decide)),
    fun h => (step_of_pending rfl).trans (issue_word_of_decode (by decide)),
    fun cfg => (step_of_pending rfl).trans issue_powerOn⟩

end

section
/-! PROOFS. The Clock and the counters (40_counters.md): the two advances bit by bit, their closed forms, and the closed forms
as an invariant of every step but a RESET. Both closed forms rest on one fact, `odd_div_succ`: the parity of `c div d` changes
exactly when the next Clock is a multiple of `d`. -/

namespace Sys2Proof.Machine

variable {p : Params} {s t : State} {i : Instr}

/-! ### The advances bit by bit (40_counters.md R52, R54) -/

theorem bcNext_allOnes (c : Nat) : bcNext c 0b11111 = 0b00000 := if_pos rfl

/-- Rule 2 of R52: below all ones, bit `j` toggles where `2^j` divides the Clock. -/
theorem getLsbD_bcNext {bc : BitVec 5} (hbc : bc ≠ 0b11111) (c : Nat) {j : Nat} (hj : j < 5) :
    (bcNext c bc).getLsbD j = (bc.getLsbD j ^^ decide (c % 2 ^ j = 0)) := by
  rw [bcNext, if_neg hbc, getLsbD_toggleWhere, decide_eq_true hj, Bool.true_and]

theorem getLsbD_tcNext (c : Nat) (tc : BitVec 2) {j : Nat} (hj : j < 2) :
    (tcNext c tc).getLsbD j = (tc.getLsbD j ^^ decide (c % (3 * (j + 1)) = 0)) := by
  rw [tcNext, getLsbD_toggleWhere, decide_eq_true hj, Bool.true_and]

/-- A toggle written as a choice. -/
theorem xor_decide_eq_ite (b : Bool) (P : Prop) [Decidable P] : (b ^^ decide P) = if P then !b else b := by
  by_cases h : P <;> simp [h]

/-- Rule 2 tests the Clock against divisors of 16 only (40_counters.md R56). -/
theorem bcNext_mod {m : Nat} (hm : 16 ∣ m) (c : Nat) (bc : BitVec 5) : bcNext c bc = bcNext (c % m) bc := by
  unfold bcNext
  refine congrArg (ite _ _) (toggleWhere_congr bc fun j hj => ?_)
  have hdvd : 2 ^ j ∣ m := (Nat.pow_dvd_pow 2 (Nat.le_of_lt_succ hj)).trans hm
  rw [Nat.mod_mod_of_dvd c hdvd]

/-- TC_ADVANCE tests the Clock against 3 and 6 only (40_counters.md R56). -/
theorem tcNext_mod {m : Nat} (hm : 6 ∣ m) (c : Nat) (tc : BitVec 2) : tcNext c tc = tcNext (c % m) tc := by
  refine toggleWhere_congr tc fun j hj => ?_
  have hdvd : 3 * (j + 1) ∣ 6 := by interval_cases j <;> decide
  rw [Nat.mod_mod_of_dvd c (hdvd.trans hm)]

/-! ### The closed forms (40_counters.md R53, R55) -/

/-- The parity of `c div d` changes exactly at the multiples of `d`: "each bit has toggled once for every multiple" (R55). -/
theorem odd_div_succ (c d : Nat) :
    decide ((c + 1) / d % 2 = 1) = (decide (c / d % 2 = 1) ^^ decide ((c + 1) % d = 0)) := by
  by_cases hd : d ∣ c + 1
  · rw [Nat.succ_div_of_dvd hd, decide_eq_true (Nat.mod_eq_zero_of_dvd hd), Bool.xor_true, ← decide_not, decide_eq_decide]
    omega
  · rw [Nat.succ_div_of_not_dvd hd, decide_eq_false (mt Nat.dvd_of_mod_eq_zero hd), Bool.xor_false]

/-- The TripleCounter's value at a Clock of `c`: bit `j` is the parity of the multiples of `3 * (j + 1)` up to `c` (R55). -/
def tripleAt (c : Nat) : BitVec 2 := bitsOf (fun j => decide (c / (3 * (j + 1)) % 2 = 1)) 2

theorem getLsbD_tripleAt (c : Nat) {j : Nat} (hj : j < 2) :
    (tripleAt c).getLsbD j = decide (c / (3 * (j + 1)) % 2 = 1) := by
  rw [tripleAt, getLsbD_bitsOf, decide_eq_true hj, Bool.true_and]

theorem tripleAt_zero : tripleAt 0 = 0 := by decide

theorem getLsbD_ofNat_clock (c : Nat) {j : Nat} (hj : j < 5) :
    (BitVec.ofNat 5 c).getLsbD j = decide (c / 2 ^ j % 2 = 1) := by
  rw [BitVec.getLsbD_ofNat, decide_eq_true hj, Bool.true_and, Nat.testBit_eq_decide_div_mod_eq]

theorem toNat_eq_mod_32_iff (c : Nat) (bc : BitVec 5) : bc.toNat = c % 32 ↔ bc = BitVec.ofNat 5 c := by
  rw [BitVec.toNat_eq, BitVec.toNat_ofNat]

theorem toNat_eq_mod_two_iff (b : Bool) (n : Nat) : b.toNat = n % 2 ↔ b = decide (n % 2 = 1) := by
  rcases Nat.mod_two_eq_zero_or_one n with h | h <;> cases b <;> simp [h]

theorem binaryFollowsClock_iff : s.BinaryFollowsClock ↔ s.bc = BitVec.ofNat 5 s.clk := toNat_eq_mod_32_iff s.clk s.bc

theorem tripleFollowsClock_iff : s.TripleFollowsClock ↔ s.tc = tripleAt s.clk := by
  rw [State.TripleFollowsClock, toNat_eq_mod_two_iff, toNat_eq_mod_two_iff, ← getLsbD_tripleAt s.clk (j := 0) (by decide),
    ← getLsbD_tripleAt s.clk (j := 1) (by decide)]
  refine ⟨fun ⟨h0, h1⟩ => BitVec.eq_of_getLsbD_eq fun j hj => ?_, fun h => by simp [h]⟩
  interval_cases j
  · exact h0
  · exact h1

/-- The advance keeps the BinaryCounter at the Clock mod 32 (R53). Rule 1 fires at the Clock where rule 2 would toggle all
five bits. -/
theorem bcNext_succ_ofNat (c : Nat) : bcNext (c + 1) (BitVec.ofNat 5 c) = BitVec.ofNat 5 (c + 1) := by
  by_cases hones : BitVec.ofNat 5 c = 0b11111
  · rw [BitVec.ofNat_add, hones, bcNext_allOnes]
    rfl
  · refine BitVec.eq_of_getLsbD_eq fun j hj => ?_
    rw [getLsbD_bcNext hones _ hj, getLsbD_ofNat_clock _ hj, getLsbD_ofNat_clock _ hj, odd_div_succ]

/-- The advance keeps the TripleCounter's closed form (R55). -/
theorem tcNext_succ_tripleAt (c : Nat) : tcNext (c + 1) (tripleAt c) = tripleAt (c + 1) := by
  refine BitVec.eq_of_getLsbD_eq fun j hj => ?_
  rw [getLsbD_tcNext _ _ hj, getLsbD_tripleAt _ hj, getLsbD_tripleAt _ hj, odd_div_succ]

/-- The TripleCounter's closed form has period 12 (R55). -/
theorem tripleAt_mod_12 (c : Nat) : tripleAt (c % 12) = tripleAt c := by
  refine BitVec.eq_of_getLsbD_eq fun j hj => ?_
  rw [getLsbD_tripleAt _ hj, getLsbD_tripleAt _ hj, decide_eq_decide]
  interval_cases j <;> omega

/-- R55's list of the pair for `CLK` = 1 to 12. -/
def tripleList : List (Bool × Bool) :=
  [(false, false), (false, false), (true, false), (true, false), (true, false), (false, true),
    (false, true), (false, true), (true, true), (true, true), (true, true), (false, false)]

theorem tripleList_eq_tripleAt :
    ∀ k < 12, tripleList[k]? = some ((tripleAt (k + 1)).getLsbD 0, (tripleAt (k + 1)).getLsbD 1) := by decide

/-- The list entry of a Clock of at least 1. -/
theorem tripleList_pred_mod {c : Nat} (hc : 1 ≤ c) :
    tripleList[(c - 1) % 12]? = some ((tripleAt c).getLsbD 0, (tripleAt c).getLsbD 1) := by
  have hmod : ((c - 1) % 12 + 1) % 12 = c % 12 := by omega
  rw [tripleList_eq_tripleAt _ (Nat.mod_lt _ (by decide)), ← tripleAt_mod_12 ((c - 1) % 12 + 1), hmod, tripleAt_mod_12]

/-! ### What keeps the closed forms -/

/-- A PULSE that is not refused advances with its snapshot. -/
theorem pulseWith_next_of_unfaulted (hf : s.fault = none) (h : pulseWith p s = .next t) :
    ∃ snap, t = pulseSteps p snap s := by
  rcases pulseWith_next h with ⟨hn, _⟩ | ⟨_, snap, _, ht⟩
  · exact absurd hf hn
  · exact ⟨snap, ht⟩

/-- The steps of a PULSE advance the Clock by one and both counters with it. -/
theorem closedForms_pulseSteps (snap : PerSlider Bool) (h : s.ClosedForms) : (pulseSteps specParams snap s).ClosedForms := by
  intro hstarted
  obtain ⟨hbc, htc⟩ := h hstarted
  rw [binaryFollowsClock_iff] at hbc ⊢
  rw [tripleFollowsClock_iff] at htc ⊢
  rw [pulseSteps_bc, pulseSteps_tc, pulseSteps_clk, hbc, htc]
  exact ⟨bcNext_succ_ofNat s.clk, tcNext_succ_tripleAt s.clk⟩

/-- INIT answers a state with both closed forms, whatever state it runs in: it zeroes the Clock and the counters, or fails
and leaves the engine not started. -/
theorem execInit_closedForms (h : exec .init s = .next t) : t.ClosedForms := by
  rcases initWith_next h with ⟨e, _, rfl⟩ | ⟨_, rfl⟩
  · exact fun hstarted => by simp at hstarted
  · exact fun _ => ⟨binaryFollowsClock_iff.mpr rfl, tripleFollowsClock_iff.mpr tripleAt_zero.symm⟩

/-- Every command but RESET keeps the closed forms. `State.ClosedForms` reads the Clock, the counters and `started` only, so a
refusal, an error and a SET_SLIDER keep them by definition. -/
theorem exec_keeps_closedForms (hi : ∀ r, i ≠ .reset r) (h : s.ClosedForms) (hrun : exec i s = .next t) : t.ClosedForms := by
  cases i with
  | pulse =>
    rcases pulseWith_next hrun with ⟨_, rfl⟩ | ⟨_, snap, _, rfl⟩
    · exact h
    · exact closedForms_pulseSteps snap h
  | setSlider id v => rcases setSliderWith_next hrun with ⟨_, rfl⟩ | ⟨_, _, rfl⟩ | ⟨_, _, rfl⟩ <;> exact h
  | reset r => exact absurd rfl (hi r)
  | init => exact execInit_closedForms hrun

/-- A step keeps the closed forms unless it runs a RESET (40_counters.md R53, R55). -/
theorem step_keeps_closedForms (h : s.ClosedForms) (hnext : s.NextIsNotReset) (hstep : step s = .next t) : t.ClosedForms := by
  rcases step_cases s with ⟨_, e⟩ | ⟨r, rest, w, _, _, _, e⟩ | ⟨r, rest, w, _, _, _, _, _, e⟩ |
      ⟨⟨c, q⟩, rest, w, i, hq, rfl, _, hd, e⟩ | ⟨r, rest, _, _, e⟩ <;> rw [e] at hstep
  · cases hstep
    exact h
  · cases hstep
    exact h
  · cases hstep
    exact h
  · have haccept : (accept ⟨.word w, q⟩ rest s).ClosedForms := h
    exact exec_keeps_closedForms (fun r hi => hnext w q rest r hq (hi ▸ hd)) haccept hstep
  · exact execInit_closedForms hstep

/-! ### The path from INIT without RESET -/

theorem OnInitPath.started (h : OnInitPath s) : s.started = true := by
  induction h with
  | init s t hrun hf =>
    rcases initWith_next hrun with ⟨e, _, rfl⟩ | ⟨_, rfl⟩
    · simp at hf
    · rfl
  | pulse s t _ hrun ih =>
    obtain ⟨_, _, hstarted, _⟩ := exec_keeps_tonic_bpm_started (by simp) hrun
    exact hstarted.trans ih
  | setSlider s t id v _ hrun ih =>
    obtain ⟨_, _, hstarted, _⟩ := exec_keeps_tonic_bpm_started (by simp) hrun
    exact hstarted.trans ih
  | host s ports pending _ ih => exact ih

theorem OnInitPath.closedForms (h : OnInitPath s) : s.ClosedForms := by
  induction h with
  | init s t hrun _ => exact execInit_closedForms hrun
  | pulse s t _ hrun ih => exact exec_keeps_closedForms (by simp) ih hrun
  | setSlider s t id v _ hrun ih => exact exec_keeps_closedForms (by simp) ih hrun
  | host s ports pending _ ih => exact ih

theorem OnInitPath.followsClock (h : OnInitPath s) : s.BinaryFollowsClock ∧ s.TripleFollowsClock :=
  h.closedForms h.started

theorem OnInitPath.bc_eq (h : OnInitPath s) : s.bc = BitVec.ofNat 5 s.clk := binaryFollowsClock_iff.mp h.followsClock.left

theorem OnInitPath.tc_eq (h : OnInitPath s) : s.tc = tripleAt s.clk := tripleFollowsClock_iff.mp h.followsClock.right

end Sys2Proof.Machine

open Sys2Proof Sys2Proof.Machine

/-- Settles O58: of all that a step can do, only a PULSE moves the Clock and the counters, by one advance, and INIT zeroes
them or leaves the engine not started. -/
theorem stepKeepsTheClosedForms : Obligations.StepKeepsTheClosedForms := by
  unfold Obligations.StepKeepsTheClosedForms
  exact fun _ _ h hnext hstep => step_keeps_closedForms h hnext hstep

/-- Settles O22: the bits of the advance, and the steps of a PULSE. -/
theorem binaryCounterAdvances : Obligations.BinaryCounterAdvances := by
  unfold Obligations.BinaryCounterAdvances
  refine ⟨fun s => ⟨fun h => ?_, fun h => ⟨bcNext s.clk s.bc, rfl, ?_, fun j hj => ?_⟩⟩, fun s t hf h => ?_⟩
  · rw [bcAdvance, h, bcNext_allOnes]
  · rw [getLsbD_bcNext h _ (by decide), pow_zero, decide_eq_true (Nat.mod_one _), Bool.xor_true]
  · rw [getLsbD_bcNext h _ hj, xor_decide_eq_ite]
  · obtain ⟨snap, rfl⟩ := pulseWith_next_of_unfaulted hf h
    rfl

/-- Settles O23: the bits of the advance, and the steps of a PULSE. -/
theorem tripleCounterAdvances : Obligations.TripleCounterAdvances := by
  unfold Obligations.TripleCounterAdvances
  refine ⟨fun s => ⟨tcNext s.clk s.tc, rfl, ?_, ?_⟩, fun s t hf h => ?_⟩
  · rw [getLsbD_tcNext _ _ (by decide), xor_decide_eq_ite]
  · rw [getLsbD_tcNext _ _ (by decide), xor_decide_eq_ite]
  · obtain ⟨snap, rfl⟩ := pulseWith_next_of_unfaulted hf h
    rfl

/-- Settles O24: the advance keeps the closed form, so the path keeps it; the two values off the path are computed. -/
theorem binaryCounterClosedForm : Obligations.BinaryCounterClosedForm := by
  unfold Obligations.BinaryCounterClosedForm
  refine ⟨fun c bc hc hbc => ?_, fun s h => ⟨h.followsClock.left, fun j hj => ?_⟩, bcNext_allOnes 1, by decide⟩
  · obtain ⟨k, rfl⟩ := Nat.exists_eq_add_of_le' hc
    rw [Nat.add_sub_cancel, toNat_eq_mod_32_iff] at hbc
    rw [toNat_eq_mod_32_iff, hbc, bcNext_succ_ofNat]
  · rw [h.bc_eq, BitVec.getLsbD_ofNat, decide_eq_true hj, Bool.true_and]

/-- Settles O25: the path keeps the closed form, whose values over one period are the rule's list. -/
theorem tripleCounterClosedForm : Obligations.TripleCounterClosedForm := by
  unfold Obligations.TripleCounterClosedForm
  intro s h
  obtain ⟨h0, h1⟩ := h.followsClock.right
  refine ⟨h0, h1, fun hc => ?_⟩
  rw [h.tc_eq]
  exact tripleList_pred_mod hc

/-- Settles O26: the tests of the advances are against divisors of 16 and of 6, and the closed forms have the periods 32 and
12, both divisors of 96. -/
theorem countersSeeTheClockMod48 : Obligations.CountersSeeTheClockMod48 := by
  unfold Obligations.CountersSeeTheClockMod48
  refine ⟨fun c bc => ⟨bcNext_mod (by decide) c bc, bcNext_mod (by decide) c bc⟩,
    fun c tc => ⟨tcNext_mod (by decide) c tc, tcNext_mod (by decide) c tc⟩, fun s t hs ht hclk => ⟨?_, ?_⟩⟩
  · have hmod : s.clk % 32 = t.clk % 32 := by omega
    rw [ht.bc_eq, ← toNat_eq_mod_32_iff, ← hmod]
    exact hs.followsClock.left
  · have hmod : s.clk % 12 = t.clk % 12 := by omega
    rw [hs.tc_eq, ht.tc_eq, ← tripleAt_mod_12 s.clk, hmod, tripleAt_mod_12]

/-- Settles O21: both kinds of width, and the steps of a PULSE. -/
theorem clockPulseCounts : Obligations.ClockPulseCounts := by
  unfold Obligations.ClockPulseCounts
  refine ⟨fun p s => ⟨fun hw => ?_, fun w hw => ?_⟩, fun p s t hf h => ?_⟩
  · simp [clockPulse, clockNext, hw]
  · refine ⟨by simp [clockPulse, clockNext, hw], fun hmax => ?_⟩
    simp [clockNext, hw, hmax, Nat.sub_add_cancel Nat.one_le_two_pow]
  · obtain ⟨snap, rfl⟩ := pulseWith_next_of_unfaulted hf h
    exact ⟨rfl, rfl, rfl⟩

/-- Settles O59: the reset state is what an INIT answers, and INIT answers states with both closed forms only. -/
theorem closedFormsHoldAtReset : Obligations.ClosedFormsHoldAtReset := by
  unfold Obligations.ClosedFormsHoldAtReset
  exact ⟨rfl, execInit_closedForms (execInit_eq_reset (s := { State.reset with responses := [] }) rfl rfl rfl rfl)⟩

end

section
/-! PROOFS. The ShiftRegister (41_shift_register.md): SR_ADVANCE bit by bit and as a number, what a PULSE pushes, and the
register after any number of advances. -/

namespace Sys2Proof.Machine

variable {s t : State} {snap : PerSlider Bool}

/-! ### SR_ADVANCE on the register (41_shift_register.md R57) -/

theorem getLsbD_srPush_zero (b : Bool) (sr : Stages) : (srPush b sr).getLsbD 0 = b := by
  simp [srPush]

theorem getLsbD_srPush_succ (b : Bool) (sr : Stages) {k : Nat} (hk : k < 30) :
    (srPush b sr).getLsbD (k + 1) = sr.getLsbD k := by
  simp [srPush, hk]

theorem toNat_srPush (b : Bool) (sr : Stages) : (srPush b sr).toNat = (sr.toNat <<< 1 ||| b.toNat) % 2 ^ 31 := by
  have hor : sr.toNat <<< 1 ||| b.toNat = sr.toNat * 2 + b.toNat :=
    (Nat.shiftLeft_add_eq_or_of_lt b.toNat_lt sr.toNat).symm.trans (by rw [Nat.shiftLeft_eq, pow_one])
  have hb : b.toNat < 2 := b.toNat_lt
  have hpush : (srPush b sr).toNat = sr.toNat % 2 ^ 30 * 2 + b.toNat := by
    simp [srPush]
  rw [hpush, hor]
  omega

/-! ### The register after any number of advances (41_shift_register.md R59) -/

/-- Position `k` after `n` advances: the bit of advance `n - k`, or the bit that stood `n` positions nearer to the front. -/
theorem getLsbD_of_pushes {r : Nat → Stages} {P : Nat → Bool} {n : Nat}
    (hpush : ∀ j < n, r (j + 1) = srPush (P (j + 1)) (r j)) :
    ∀ k ≤ 30, (r n).getLsbD k = if 1 ≤ n - k then P (n - k) else (r 0).getLsbD (k - n) := by
  induction n with
  | zero => simp
  | succ n ih =>
    intro k hk
    rw [hpush n n.lt_succ_self]
    cases k with
    | zero => rw [getLsbD_srPush_zero, Nat.sub_zero, if_pos (Nat.le_add_left 1 n)]
    | succ k =>
      rw [getLsbD_srPush_succ _ _ hk, ih (fun j hj => hpush j (Nat.lt_succ_of_lt hj)) k (Nat.le_of_lt hk),
        Nat.add_sub_add_right, Nat.add_sub_add_right]

/-! ### What a PULSE pushes (45_engine_commands.md R71, step 6) -/

/-- A PULSE that is not refused advances the register by the parity of its snapshot. -/
theorem execPulse_sr (hf : s.fault = none) (hs : snapshot s = some snap) (h : exec .pulse s = .next t) :
    t.sr = srPush (parity snap.w snap.x snap.y snap.z) s.sr := by
  rcases pulseWith_next h with ⟨hn, _⟩ | ⟨_, snap', hs', rfl⟩
  · exact absurd hf hn
  · obtain rfl : snap' = snap := Option.some.inj (hs'.symm.trans hs)
    exact pulseSteps_sr s specParams snap'

end Sys2Proof.Machine

open Sys2Proof Sys2Proof.Machine

/-- Settles O29: the bits and the value of `srPush`, which a PULSE applies to the register with its parity. -/
theorem shiftRegisterAdvances : Obligations.ShiftRegisterAdvances := by
  unfold Obligations.ShiftRegisterAdvances
  refine ⟨fun s b => ⟨srPush b s.sr, rfl, getLsbD_srPush_zero b s.sr, fun k h1 hk => ?_, toNat_srPush b s.sr⟩,
    fun s t snap hf hs h => execPulse_sr hf hs h⟩
  obtain ⟨k, rfl⟩ := Nat.exists_eq_add_of_le' h1
  exact getLsbD_srPush_succ b s.sr hk

/-- Settles O30: each PULSE of the sequence pushes its parity bit, so the register holds the last bits pushed, then the
seed. -/
theorem shiftRegisterHistory : Obligations.ShiftRegisterHistory := by
  unfold Obligations.ShiftRegisterHistory
  rintro n f P seed rfl hpulses
  refine getLsbD_of_pushes (r := fun j => (f j).sr) fun j hj => ?_
  obtain ⟨hf, ⟨snap, hs, hP⟩, t, hrun, hkeep⟩ := hpulses j hj
  rw [hkeep, hP]
  exact execPulse_sr hf hs hrun

end

section
/-! PROOFS. The slider sources (42_slider_source.md): SLIDER_OUTPUT range by range and as an index into the source sequence, the
selector check, what the counter-bound sliders read, and that a legal state always has its next state. -/

namespace Sys2Proof.Machine

variable {s : State} {v : Selector}

/-! ### SLIDER_OUTPUT, one equation per range of R60 -/

theorem sliderOutput_off (hv : v.toNat = 0) : sliderOutput s v = some false := if_pos hv

theorem sliderOutput_on (hv : v.toNat = 1) : sliderOutput s v = some true := by
  simp [sliderOutput, hv]

theorem sliderOutput_bc {j : Nat} (hj : j ≤ 4) (hv : v.toNat = 2 + j) : sliderOutput s v = some (s.bc.getLsbD j) := by
  simp (disch := omega) only [sliderOutput, hv, if_neg, if_pos, Nat.add_sub_cancel_left]

theorem sliderOutput_tc {j : Nat} (hj : j ≤ 1) (hv : v.toNat = 7 + j) : sliderOutput s v = some (s.tc.getLsbD j) := by
  simp (disch := omega) only [sliderOutput, hv, if_neg, if_pos, Nat.add_sub_cancel_left]

theorem sliderOutput_sr {k : Nat} (hk : k ≤ 30) (hv : v.toNat = 9 + k) : sliderOutput s v = some (s.sr.getLsbD k) := by
  simp (disch := omega) only [sliderOutput, hv, if_neg, if_pos, Nat.add_sub_cancel_left]

theorem sliderOutput_beyond (hv : 40 ≤ v.toNat) : sliderOutput s v = none := by
  have hsome := sliderOutput_isSome s v
  rwa [decide_eq_false (Nat.not_le.mpr hv), Option.isSome_eq_false_iff, Option.isNone_iff_eq_none] at hsome

/-- The ranges of R60: the two constants, the two counters, the register, and what is beyond them. -/
theorem selector_ranges (n : Nat) :
    n = 0 ∨ n = 1 ∨ (∃ j ≤ 4, n = 2 + j) ∨ (∃ j ≤ 1, n = 7 + j) ∨ (∃ k ≤ 30, n = 9 + k) ∨ 40 ≤ n := by
  rcases Nat.lt_or_ge n 2 with h | h2
  · omega
  rcases Nat.lt_or_ge n 7 with h | h7
  · exact .inr (.inr (.inl ⟨n - 2, by omega, by omega⟩))
  rcases Nat.lt_or_ge n 9 with h | h9
  · exact .inr (.inr (.inr (.inl ⟨n - 7, by omega, by omega⟩)))
  rcases Nat.lt_or_ge n 40 with h | h40
  · exact .inr (.inr (.inr (.inr (.inl ⟨n - 9, by omega, by omega⟩))))
  · exact .inr (.inr (.inr (.inr (.inr h40))))

/-! ### The source sequence at an index (42_slider_source.md R60, R62) -/

theorem length_sourceSequence (s : State) : (sourceSequence s).length = 40 := by
  simp [sourceSequence]

theorem sourceSequence_bc {j : Nat} (hj : j ≤ 4) : (sourceSequence s)[2 + j]? = some (s.bc.getLsbD j) := by
  interval_cases j <;> rfl

theorem sourceSequence_tc {j : Nat} (hj : j ≤ 1) : (sourceSequence s)[7 + j]? = some (s.tc.getLsbD j) := by
  interval_cases j <;> rfl

theorem sourceSequence_sr {k : Nat} (hk : k ≤ 30) : (sourceSequence s)[9 + k]? = some (s.sr.getLsbD k) := by
  have hsplit := List.getElem?_append_right (l₂ := (List.range 31).map s.sr.getLsbD)
    (l₁ := [false, true] ++ (List.range 5).map s.bc.getLsbD ++ (List.range 2).map s.tc.getLsbD) (i := 9 + k) (by simp)
  rw [sourceSequence, hsplit]
  simp [Nat.lt_succ_of_le hk]

/-- SLIDER_OUTPUT indexes the source sequence: both give the same source in each range. -/
theorem sliderOutput_eq_getElem? (s : State) (v : Selector) : sliderOutput s v = (sourceSequence s)[v.toNat]? := by
  rcases selector_ranges v.toNat with hv | hv | ⟨j, hj, hv⟩ | ⟨j, hj, hv⟩ | ⟨k, hk, hv⟩ | hv
  · rw [sliderOutput_off hv, hv]
    rfl
  · rw [sliderOutput_on hv, hv]
    rfl
  · rw [sliderOutput_bc hj hv, hv, sourceSequence_bc hj]
  · rw [sliderOutput_tc hj hv, hv, sourceSequence_tc hj]
  · rw [sliderOutput_sr hk hv, hv, sourceSequence_sr hk]
  · rw [sliderOutput_beyond hv, List.getElem?_eq_none ((length_sourceSequence s).trans_le hv)]

/-! ### SELECTOR_CHECK (42_slider_source.md R61) -/

theorem selectorCheck_of_lt {p : Params} (i : Slider) (h : p.maxSelector < v.toNat) :
    selectorCheck p i v = some (.cfgSelector i v) := if_pos h

theorem selectorCheck_eq_none_iff (p : Params) (i : Slider) (v : Selector) :
    selectorCheck p i v = none ↔ v.toNat ≤ p.maxSelector := by
  simp [selectorCheck]

/-! ### PULSE has a snapshot where the selectors are legal (log 10) -/

/-- A PULSE of an engine that is not faulted, with legal selectors, advances with its snapshot. -/
theorem execPulse_of_selectorsUpTo (hf : s.fault = none) (hsel : s.SelectorsUpTo 39) :
    ∃ snap, snapshot s = some snap ∧ exec .pulse s = .next (pulseSteps specParams snap s) := by
  obtain ⟨snap, hs⟩ := exists_snapshot s hsel
  rcases pulseWith_cases specParams s with ⟨hn, _⟩ | ⟨_, snap', hs', e⟩ | ⟨_, hnone, _⟩
  · exact absurd hf hn
  · exact ⟨snap', hs', e⟩
  · cases hs.symm.trans hnone

/-- A legal engine that is not faulted has started (45_engine_commands.md R76), so its selectors are legal. -/
theorem State.Legal.selectorsUpTo (h : s.Legal specParams) (hf : s.fault = none) : s.SelectorsUpTo 39 := by
  obtain ⟨hconfig, hfaulted⟩ := h
  cases hstarted : s.started with
  | false => exact absurd hf (hfaulted hstarted)
  | true => exact (hconfig hstarted).left

/-- Only a PULSE without a snapshot stops, and a legal state has one or refuses the PULSE. -/
theorem exists_exec_of_legal (i : Instr) (h : s.Legal specParams) : ∃ t, exec i s = .next t := by
  cases i with
  | pulse =>
    by_cases hf : s.fault = none
    · obtain ⟨snap, _, e⟩ := execPulse_of_selectorsUpTo hf (h.selectorsUpTo hf)
      exact ⟨_, e⟩
    · exact ⟨_, exec_of_faulted (by simp) hf⟩
  | setSlider id v => rcases setSliderWith_cases specParams id v s with ⟨_, e⟩ | ⟨_, _, e⟩ | ⟨_, _, e⟩ <;> exact ⟨_, e⟩
  | reset r => rcases execReset_cases r s with ⟨_, e⟩ | ⟨_, e⟩ <;> exact ⟨_, e⟩
  | init => rcases initWith_cases specParams s with ⟨_, _, e⟩ | ⟨_, e⟩ <;> exact ⟨_, e⟩

/-- A legal state has its next state, whatever the host issues. -/
theorem exists_step_of_legal (h : s.Legal specParams) : ∃ t, step s = .next t := by
  rcases step_cases s with ⟨_, e⟩ | ⟨_, _, _, _, _, _, e⟩ | ⟨_, _, _, _, _, _, _, _, e⟩ |
      ⟨r, rest, _, i, _, _, _, _, e⟩ | ⟨r, rest, _, _, e⟩
  · exact ⟨_, e⟩
  · exact ⟨_, e⟩
  · exact ⟨_, e⟩
  · exact e ▸ exists_exec_of_legal i (legal_accept r rest h)
  · exact e ▸ exists_exec_of_legal .init (legal_accept r rest h)

/-- A step that answers at all keeps the state legal, so a run from a legal state goes on step by step. -/
theorem exists_run_of_legal (n : Nat) (h : s.Legal specParams) : ∃ t, run n s = .next t ∧ t.Legal specParams := by
  induction n generalizing s with
  | zero => exact ⟨s, rfl, h⟩
  | succ n ih =>
    obtain ⟨u, hstep⟩ := exists_step_of_legal h
    rw [run_succ_of_step hstep]
    exact ih (stepKeepsStateLegal s u h hstep)

/-! ### Counter-bound sliders (42_slider_source.md R63) -/

/-- A slider on `2 + j` reads bit `j` of the Clock mod 32. -/
theorem OnInitPath.sliderOutput_bc (h : OnInitPath s) {j : Nat} (hj : j ≤ 4) (hv : v.toNat = 2 + j) :
    sliderOutput s v = some ((s.clk % 32).testBit j) := by
  rw [Machine.sliderOutput_bc hj hv, h.bc_eq, BitVec.getLsbD_ofNat, ← Nat.testBit_mod_two_pow]

/-- A slider on `7 + j` reads the parity of the multiples of `3 * (j + 1)` that the Clock has reached. -/
theorem OnInitPath.sliderOutput_tc (h : OnInitPath s) {j : Nat} (hj : j ≤ 1) (hv : v.toNat = 7 + j) :
    sliderOutput s v = some (decide (s.clk / (3 * (j + 1)) % 2 = 1)) := by
  rw [Machine.sliderOutput_tc hj hv, h.tc_eq, getLsbD_tripleAt _ (Nat.lt_succ_of_le hj)]

/-- ENCODE on bits 0 to 3 of a number is the number mod 16 (44_note_mapper.md R65). -/
theorem toNat_encodeIndex_testBit (n : Nat) :
    (encodeIndex (n.testBit 0) (n.testBit 1) (n.testBit 2) (n.testBit 3)).toNat = n % 16 := by
  simp only [encodeIndex, BitVec.toNat_ofNat, Nat.toNat_testBit]
  omega

/-- With A, B, C, D on the first four bits of the BinaryCounter, the snapshot encodes the Clock mod 16. -/
theorem OnInitPath.toNat_encodeIndex_snapshot {snap : PerSlider Bool} (h : OnInitPath s) (hs : snapshot s = some snap)
    (ha : s.sel.a = 2) (hb : s.sel.b = 3) (hc : s.sel.c = 4) (hd : s.sel.d = 5) :
    (encodeIndex snap.a snap.b snap.c snap.d).toNat = s.clk % 16 := by
  have hout := (snapshot_eq_some_iff s snap).mp hs
  have hbit {i : Slider} {j : Nat} (hj : j ≤ 4) (hv : (s.sel.get i).toNat = 2 + j) :
      snap.get i = (s.clk % 32).testBit j :=
    Option.some.inj ((hout i).symm.trans (h.sliderOutput_bc hj hv))
  have h0 : snap.a = (s.clk % 32).testBit 0 := hbit (i := .a) (by decide) (by simp [PerSlider.get, ha])
  have h1 : snap.b = (s.clk % 32).testBit 1 := hbit (i := .b) (by decide) (by simp [PerSlider.get, hb])
  have h2 : snap.c = (s.clk % 32).testBit 2 := hbit (i := .c) (by decide) (by simp [PerSlider.get, hc])
  have h3 : snap.d = (s.clk % 32).testBit 3 := hbit (i := .d) (by decide) (by simp [PerSlider.get, hd])
  rw [h0, h1, h2, h3, toNat_encodeIndex_testBit]
  omega

end Sys2Proof.Machine

open Sys2Proof Sys2Proof.Machine

/-- Settles O55: a legal state has its next state, which is legal again, by induction on the number of steps. -/
theorem legalRunsNeverStop : Obligations.LegalRunsNeverStop := by
  unfold Obligations.LegalRunsNeverStop
  exact fun n _ h => exists_run_of_legal n h

/-- Settles O32, range by range. -/
theorem sliderOutputIndexesTheSources : Obligations.SliderOutputIndexesTheSources := by
  unfold Obligations.SliderOutputIndexesTheSources
  exact fun s v => ⟨sliderOutput_eq_getElem? s v, sliderOutput_off, sliderOutput_on, fun _ => sliderOutput_bc,
    fun _ => sliderOutput_tc, fun _ => sliderOutput_sr, sliderOutput_beyond⟩

/-- Settles O34: on the path the counters are functions of the Clock, and a PULSE encodes the snapshot it took of them. -/
theorem counterBoundSliders : Obligations.CounterBoundSliders := by
  unfold Obligations.CounterBoundSliders
  intro s h
  refine ⟨fun j hj v hv => h.sliderOutput_bc hj hv, h.sliderOutput_tc (j := 0) (by decide) rfl,
    h.sliderOutput_tc (j := 1) (by decide) rfl, fun hf hsel ha hb hc hd => ?_⟩
  obtain ⟨snap, hs, e⟩ := execPulse_of_selectorsUpTo hf hsel
  exact ⟨_, _, e, pulseSteps_responses s specParams snap, h.toNat_encodeIndex_snapshot hs ha hb hc hd⟩

/-- Settles O33: the check at its bound, and the two bounds the spec admits. -/
theorem selectorCheckBounds : Obligations.SelectorCheckBounds := by
  unfold Obligations.SelectorCheckBounds
  exact ⟨fun p i v => ⟨selectorCheck_of_lt i, (selectorCheck_eq_none_iff p i v).mpr⟩,
    selectorCheck_eq_none_iff specParams, selectorCheck_eq_none_iff { specParams with maxSelector := 37 }⟩

end

section
/-! PROOFS. The ParityUnit (43_parity.md): the parity as a sum and as an exclusive or, and the bit a PULSE pushes. -/

namespace Sys2Proof.Machine

variable {s : State} {snap : PerSlider Bool}

theorem toNat_parity (w x y z : Bool) :
    (parity w x y z).toNat = (w.toNat + x.toNat + y.toNat + z.toNat) % 2 := by
  rw [parity, ← Nat.testBit_zero, Nat.toNat_testBit, pow_zero, Nat.div_one]

theorem parity_eq_xor : ∀ w x y z : Bool, parity w x y z = (w ^^ x ^^ y ^^ z) := by decide

/-- The snapshot holds what a slider outputs. -/
theorem snapshot_get_eq (hs : snapshot s = some snap) {i : Slider} {b : Bool}
    (hb : sliderOutput s (s.sel.get i) = some b) : snap.get i = b :=
  Option.some.inj (((snapshot_eq_some_iff s snap).mp hs i).symm.trans hb)

end Sys2Proof.Machine

open Sys2Proof Sys2Proof.Machine

/-- Settles O36: a PULSE pushes the parity of its snapshot, whose theme bits are the outputs of the four theme sliders. -/
theorem parityOfTheThemeSliders : Obligations.ParityOfTheThemeSliders := by
  unfold Obligations.ParityOfTheThemeSliders
  refine ⟨fun w x y z => ⟨toNat_parity w x y z, parity_eq_xor w x y z⟩, fun s w x y z hf hsel hw hx hy hz => ?_⟩
  obtain ⟨snap, hs, hpulse⟩ := execPulse_of_selectorsUpTo hf hsel
  obtain rfl : snap.w = w := snapshot_get_eq (i := .w) hs hw
  obtain rfl : snap.x = x := snapshot_get_eq (i := .x) hs hx
  obtain rfl : snap.y = y := snapshot_get_eq (i := .y) hs hy
  obtain rfl : snap.z = z := snapshot_get_eq (i := .z) hs hz
  refine ⟨_, hpulse, ?_⟩
  rw [pulseSteps_sr, getLsbD_srPush_zero, parity_eq_xor]

end

section
/-! PROOFS. The NoteMapper (44_note_mapper.md): the note index, the half-tone table, and the frequency in each range of the
exact value t·ρ^h. -/

namespace Sys2Proof.Machine

variable {ratio : SemitoneRatio} {t r : Binary64} {h : HalfTones} {a b : Nat}

/-! ### The note index (44_note_mapper.md R65) -/

theorem toNat_encodeIndex (a b c d : Bool) :
    (encodeIndex a b c d).toNat = a.toNat + 2 * b.toNat + 4 * c.toNat + 8 * d.toNat := by
  have ha := a.toNat_lt
  have hb := b.toNat_lt
  have hc := c.toNat_lt
  have hd := d.toNat_lt
  rw [encodeIndex, BitVec.toNat_ofNat, Nat.mod_eq_of_lt (by omega)]

theorem getLsbD_encodeIndex : ∀ a b c d : Bool,
    (encodeIndex a b c d).getLsbD 0 = a ∧ (encodeIndex a b c d).getLsbD 1 = b
      ∧ (encodeIndex a b c d).getLsbD 2 = c ∧ (encodeIndex a b c d).getLsbD 3 = d := by decide

/-- Each of the four bits is read back from the index. -/
theorem encodeIndex_injective {a b c d a' b' c' d' : Bool} (he : encodeIndex a b c d = encodeIndex a' b' c' d') :
    a = a' ∧ b = b' ∧ c = c' ∧ d = d' := by
  obtain ⟨ha, hb, hc, hd⟩ := getLsbD_encodeIndex a b c d
  obtain ⟨ha', hb', hc', hd'⟩ := getLsbD_encodeIndex a' b' c' d'
  rw [he] at ha hb hc hd
  exact ⟨ha.symm.trans ha', hb.symm.trans hb', hc.symm.trans hc', hd.symm.trans hd'⟩

theorem encodeIndex_surjective (n : Degree) : ∃ a b c d : Bool, encodeIndex a b c d = n :=
  ⟨_, _, _, _, BitVec.eq_of_toNat_eq ((toNat_encodeIndex_testBit n.toNat).trans (Nat.mod_eq_of_lt n.isLt))⟩

/-! ### The half-tone table (44_note_mapper.md R66, R67) -/

theorem halfTonesTable_getElem? (index : Degree) : halfTonesTable[index.toNat]? = some (halfTone index) :=
  List.getElem?_eq_getElem index.isLt

theorem halfTone_le (index : Degree) : (halfTone index).toNat ≤ 24 := by
  have hall : ∀ h ∈ halfTonesTable, h.toNat ≤ 24 := by decide
  exact hall _ (List.getElem_mem index.isLt)

/-! ### The exact comparisons, written out -/

theorem overflows_eq_false_iff : overflows ratio t h = false ↔
    F64.units t ^ rhoDegree ratio * rhoNum ratio h ≤ F64.maxFiniteUnits ^ rhoDegree ratio * rhoDen ratio h := by
  rw [overflows, Bool.not_eq_false', timesRhoLe, decide_eq_true_iff]

theorem overflows_eq_true_iff : overflows ratio t h = true ↔
    F64.maxFiniteUnits ^ rhoDegree ratio * rhoDen ratio h < F64.units t ^ rhoDegree ratio * rhoNum ratio h := by
  rw [← Bool.not_eq_false, overflows_eq_false_iff, not_le]

theorem reachesNormal_iff : reachesNormal ratio t h = true ↔
    F64.minNormalUnits ^ rhoDegree ratio * rhoDen ratio h ≤ F64.units t ^ rhoDegree ratio * rhoNum ratio h := by
  rw [reachesNormal, leTimesRho, decide_eq_true_iff]

theorem withinTolerance_iff : withinTolerance ratio t h r = true ↔
    F64.legalTonic r = true
      ∧ timesRhoLe ratio h ((2 ^ 45 - 1) * F64.units t) (2 ^ 45 * F64.units r) = true
      ∧ leTimesRho ratio h (2 ^ 45 * F64.units r) ((2 ^ 45 + 1) * F64.units t) = true := by
  rw [withinTolerance, Bool.and_eq_true, Bool.and_eq_true, and_assoc, and_comm (a := leTimesRho _ _ _ _ = true)]

/-! Where ρ^h is a whole number `k`, the comparisons are of natural numbers: `k` is 1 at half-tone 0, and 2 at half-tone 12
under EXACT. -/

theorem timesRhoLe_iff_of_whole {k : Nat} (hk : rhoNum ratio h = k ^ rhoDegree ratio * rhoDen ratio h) :
    timesRhoLe ratio h a b = true ↔ a * k ≤ b := by
  rw [timesRhoLe, decide_eq_true_iff, hk, ← mul_assoc, ← mul_pow, Nat.mul_le_mul_right_iff (rhoDen_pos ratio h),
    Nat.pow_le_pow_iff_left (rhoDegree_pos ratio)]

theorem leTimesRho_iff_of_whole {k : Nat} (hk : rhoNum ratio h = k ^ rhoDegree ratio * rhoDen ratio h) :
    leTimesRho ratio h b a = true ↔ b ≤ a * k := by
  rw [leTimesRho, decide_eq_true_iff, hk, ← mul_assoc, ← mul_pow, Nat.mul_le_mul_right_iff (rhoDen_pos ratio h),
    Nat.pow_le_pow_iff_left (rhoDegree_pos ratio)]

theorem rhoNum_zero_eq (ratio : SemitoneRatio) : rhoNum ratio 0 = 1 ^ rhoDegree ratio * rhoDen ratio 0 := by
  rw [rhoNum_zero, rhoDen_zero, one_pow, mul_one]

theorem rhoNum_exact_octave : rhoNum .exact 12 = 2 ^ rhoDegree .exact * rhoDen .exact 12 := rfl

/-! ### FREQ_F64 (44_note_mapper.md R68, R69) -/

theorem F64.isFinite_of_legalTonic (ht : F64.legalTonic t = true) : F64.isFinite t = true :=
  (Bool.and_eq_true_iff.mp ht).left

theorem freqF64_zero (ht : F64.legalTonic t = true) : freqF64 ratio t 0 = t := by
  simp only [freqF64, if_pos ht, if_true]

/-- A legal tonic is itself at most DBL_MAX. -/
theorem overflows_zero (ht : F64.legalTonic t = true) : overflows ratio t 0 = false := by
  rw [overflows, Bool.not_eq_false', timesRhoLe_iff_of_whole (rhoNum_zero_eq ratio), mul_one]
  exact F64.units_le_maxFiniteUnits (F64.isFinite_of_legalTonic ht)

theorem withinTolerance_self (ht : F64.legalTonic t = true) : withinTolerance ratio t 0 t = true := by
  rw [withinTolerance_iff, timesRhoLe_iff_of_whole (rhoNum_zero_eq ratio), leTimesRho_iff_of_whole (rhoNum_zero_eq ratio),
    mul_one, mul_one]
  exact ⟨ht, Nat.mul_le_mul_right _ (by omega), Nat.mul_le_mul_right _ (by omega)⟩

theorem freqF64_of_overflows (ht : F64.legalTonic t = true) (ho : overflows ratio t h = true) :
    freqF64 ratio t h = F64.infinity := by
  have h0 : h ≠ 0 := by
    rintro rfl
    exact Bool.false_ne_true ((overflows_zero ht).symm.trans ho)
  simp only [freqF64, if_pos ht, if_neg h0, if_pos ho]

theorem freqF64_of_inRange (ht : F64.legalTonic t = true) (h0 : h ≠ 0) (hn : reachesNormal ratio t h = true)
    (ho : overflows ratio t h = false) :
    freqF64 ratio t h = if withinTolerance ratio t h (Config.freeFrequency ratio t h) then Config.freeFrequency ratio t h
      else conformingFrequency ratio t h := by
  simp only [freqF64, if_pos ht, if_neg h0, ho, if_pos hn, Bool.false_eq_true, if_false]

/-- In the normal range the frequency is within the tolerance of R69 (c): at half-tone 0 the tonic is, the free value is
where it stands, and the reference evaluation is where it replaces it. -/
theorem withinTolerance_freqF64 (ht : F64.legalTonic t = true) (hh : h.toNat ≤ 24) (hn : reachesNormal ratio t h = true)
    (ho : overflows ratio t h = false) : withinTolerance ratio t h (freqF64 ratio t h) = true := by
  by_cases h0 : h = 0
  · subst h0
    rw [freqF64_zero ht]
    exact withinTolerance_self ht
  · rw [freqF64_of_inRange ht h0 hn ho]
    split_ifs with hfree
    · exact hfree
    · exact conformingFrequency_within ratio t h hh hn ho

end Sys2Proof.Machine

open Sys2Proof Sys2Proof.Machine

/-- Settles O39: in the normal range the frequency conforms whichever value the model takes for it. -/
theorem frequencyProperties : Obligations.FrequencyProperties := by
  unfold Obligations.FrequencyProperties
  refine ⟨fun _ _ ht => freqF64_zero ht, fun ratio t h ht hh hmin hmax => ?_⟩
  obtain ⟨hlegal, hlo, hhi⟩ := withinTolerance_iff.mp
    (withinTolerance_freqF64 ht hh (reachesNormal_iff.mpr hmin) (overflows_eq_false_iff.mpr hmax))
  exact ⟨hlegal, of_decide_eq_true hlo, of_decide_eq_true hhi⟩

/-- Settles O40: index 7 is half-tone 12, where the exact factor is 2. -/
theorem octaveAtIndexSeven : Obligations.OctaveAtIndexSeven := by
  unfold Obligations.OctaveAtIndexSeven
  intro t ht hmin hmax
  rw [mul_comm] at hmin hmax
  have hn : reachesNormal .exact t 12 = true := (leTimesRho_iff_of_whole rhoNum_exact_octave).mpr hmin
  have ho : overflows .exact t 12 = false := by
    rw [overflows, Bool.not_eq_false', timesRhoLe_iff_of_whole rhoNum_exact_octave]
    exact hmax
  have hwithin : withinTolerance .exact t 12 (toFrequency .exact t 7) = true :=
    withinTolerance_freqF64 ht (by decide) hn ho
  rwa [withinTolerance_iff, timesRhoLe_iff_of_whole rhoNum_exact_octave, leTimesRho_iff_of_whole rhoNum_exact_octave,
    mul_assoc, mul_assoc, mul_comm (F64.units t) 2] at hwithin

/-- Settles O37: the index is the number whose binary digits are the four bits. -/
theorem noteIndexIsABijection : Obligations.NoteIndexIsABijection := by
  unfold Obligations.NoteIndexIsABijection
  exact ⟨toNat_encodeIndex, fun _ _ _ _ _ _ _ _ => encodeIndex_injective, encodeIndex_surjective⟩

/-- Settles O38: the literal table is the model's, and its last two entries are the same. -/
theorem halfToneTable : Obligations.HalfToneTable := by
  unfold Obligations.HalfToneTable
  refine ⟨fun index => ⟨?_, halfTone_le index⟩, fun ratio t => ?_⟩
  · have htable : [0, 2, 4, 5, 7, 9, 11, 12, 14, 16, 17, 19, 21, 23, 24, 24] = halfTonesTable.map BitVec.toNat := by decide
    rw [htable, List.getElem?_map, halfTonesTable_getElem?, Option.map_some]
  · have hsame : halfTone 14 = halfTone 15 := by decide
    rw [toFrequency, toFrequency, hsame]

/-- Settles O41: beyond DBL_MAX the frequency is +infinity, and at index 0 it is the tonic, which is finite. -/
theorem frequencyOverflow : Obligations.FrequencyOverflow := by
  unfold Obligations.FrequencyOverflow
  refine ⟨fun ratio t index ht hbeyond => freqF64_of_overflows ht (overflows_eq_true_iff.mpr hbeyond),
    fun ratio t ht hinf => ?_⟩
  have htonic : toFrequency ratio t 0 = t := freqF64_zero ht
  rw [htonic] at hinf
  subst hinf
  exact absurd ht (by decide)

end

section
/-! PROOFS. The engine's commands (45_engine_commands.md): the next state of each command written out, the configuration check
of INIT, which command can change what, and that the host sees of a run what the last INIT and the commands after it fix. -/

namespace Sys2Proof.Machine

variable {p : Params} {s t : State} {i : Instr}

/-! ### Steps and legal states -/

theorem step_of_no_pending (h : s.pending = []) : step s = .next s := by
  simp [step, stepHost, h]

/-- A legal engine that is not faulted has started (45_engine_commands.md R76). -/
theorem State.Legal.started_of_unfaulted (h : s.Legal p) (hf : s.fault = none) : s.started = true := by
  by_contra hns
  exact h.right (Bool.eq_false_of_not_eq_true hns) hf

/-! ### PULSE (45_engine_commands.md R71, R72) -/

/-- A PULSE that is not refused and has a snapshot advances with it. -/
theorem pulseWith_of_snapshot {snap : PerSlider Bool} (hf : s.fault = none) (hs : snapshot s = some snap) :
    pulseWith p s = .next (pulseSteps p snap s) := by
  rw [pulseWith, unlessFaulted_of_none _ hf, hs]

/-- With every slider on the constant 0 the snapshot is all 0. -/
theorem snapshot_of_all_off (h : ∀ i : Slider, s.sel.get i = 0) :
    snapshot s = some ⟨false, false, false, false, false, false, false, false⟩ := by
  refine (snapshot_eq_some_iff s _).mpr fun i => ?_
  rw [h i, sliderOutput_off rfl]
  cases i <;> rfl

/-! ### SET_SLIDER and RESET (45_engine_commands.md R73, R74) -/

theorem execSetSlider_of_le {id : Slider} {v : Selector} (hf : s.fault = none) (hv : v.toNat ≤ 39) :
    exec (.setSlider id v) s = .next (respondStatus statusOk { s with sel := s.sel.set id v }) := by
  rcases setSliderWith_cases specParams id v s with ⟨hn, _⟩ | ⟨_, hlt, _⟩ | ⟨_, _, e⟩
  · exact absurd hf hn
  · exact absurd hv (Nat.not_le.mpr hlt)
  · exact e

theorem execSetSlider_of_lt {id : Slider} {v : Selector} (hf : s.fault = none) (hv : 39 < v.toNat) :
    exec (.setSlider id v) s = .next (raiseError (.cfgSelector id v) s) := by
  rcases setSliderWith_cases specParams id v s with ⟨hn, _⟩ | ⟨_, _, e⟩ | ⟨_, hle, _⟩
  · exact absurd hf hn
  · exact e
  · exact absurd hv (Nat.not_lt.mpr hle)

theorem execReset_of_unfaulted {r : Bool} (hf : s.fault = none) :
    exec (.reset r) s
      = .next (respondStatus statusOk { s with clk := 0, sr := if r then s.ports.seedIn else s.sr }) := by
  rcases execReset_cases r s with ⟨hn, _⟩ | ⟨_, e⟩
  · exact absurd hf hn
  · exact e

/-! ### INIT's configuration check (45_engine_commands.md R75) -/

theorem pairwise_slider_id : Slider.all.Pairwise fun i j => i.id.toNat < j.id.toNat := by decide

/-- The selectors' part of the configuration check reports the lowest failing slider id. -/
theorem selectorErrors_eq_some {v : PerSlider Selector} {e : ErrorInfo}
    (h : Slider.all.findSome? (fun i => selectorCheck p i (v.get i)) = some e) :
    ∃ i : Slider, p.maxSelector < (v.get i).toNat
      ∧ (∀ j : Slider, j.id.toNat < i.id.toNat → (v.get j).toNat ≤ p.maxSelector) ∧ e = .cfgSelector i (v.get i) := by
  obtain ⟨before, i, after, hall, hi, hbefore⟩ := List.findSome?_eq_some_iff.mp h
  have hlt : p.maxSelector < (v.get i).toNat := by
    by_contra hle
    rw [(selectorCheck_eq_none_iff p i _).mpr (Nat.not_lt.mp hle)] at hi
    cases hi
  rw [selectorCheck_of_lt i hlt] at hi
  refine ⟨i, hlt, fun j hj => (selectorCheck_eq_none_iff p j _).mp (hbefore j ?_), (Option.some.inj hi).symm⟩
  have hafter : ∀ k ∈ after, i.id.toNat < k.id.toNat :=
    (List.pairwise_cons.mp (List.pairwise_append.mp (hall ▸ pairwise_slider_id)).right.left).left
  rcases List.mem_append.mp (hall ▸ Slider.mem_all j) with hmem | hmem
  · exact hmem
  · rcases List.mem_cons.mp hmem with rfl | hmem
    · exact absurd hj (Nat.lt_irrefl _)
    · exact absurd hj (Nat.lt_asymm (hafter j hmem))

/-- The error of a configuration is its first failing check: a selector, the tempo, the tonic (60_exceptions.md R88). -/
theorem configError_eq_some {cfg : Ports} {e : ErrorInfo} (h : configError p cfg = some e) :
    (∃ i : Slider, p.maxSelector < (cfg.selIn.get i).toNat
        ∧ (∀ j : Slider, j.id.toNat < i.id.toNat → (cfg.selIn.get j).toNat ≤ p.maxSelector)
        ∧ e = .cfgSelector i (cfg.selIn.get i))
      ∨ ((∀ j : Slider, (cfg.selIn.get j).toNat ≤ p.maxSelector) ∧ cfg.bpmIn.toInt ≤ 0 ∧ e = .cfgBpm cfg.bpmIn)
      ∨ ((∀ j : Slider, (cfg.selIn.get j).toNat ≤ p.maxSelector) ∧ 0 < cfg.bpmIn.toInt
          ∧ F64.legalTonic cfg.tonicIn = false ∧ e = .cfgTonic cfg.tonicIn) := by
  rw [configError] at h
  cases hsel : Slider.all.findSome? fun i => selectorCheck p i (cfg.selIn.get i) with
  | some e' =>
    rw [hsel] at h
    cases h
    exact .inl (selectorErrors_eq_some hsel)
  | none =>
    have hle := (selectorErrors_eq_none p cfg.selIn).mp hsel
    simp only [hsel] at h
    split_ifs at h with hbpm htonic <;> cases h
    · exact .inr (.inl ⟨hle, hbpm, rfl⟩)
    · exact .inr (.inr ⟨hle, Int.not_le.mp hbpm, Bool.eq_false_of_not_eq_true htonic, rfl⟩)

theorem execInit_of_configError {e : ErrorInfo} (h : configError specParams s.ports = some e) :
    exec .init s = .next (raiseError e (loseElements s)) := by
  rw [exec, execInit, initWith, h]

theorem execInit_of_no_configError (h : configError specParams s.ports = none) :
    exec .init s = .next (respondStatus statusOk (loadConfig s.ports s)) := by
  rw [exec, execInit, initWith, h]

/-! ### The legal tonics (20_memory.md R30) -/

theorem F64.sign_eq (t : Binary64) : F64.sign t = decide (2 ^ 63 ≤ t.toNat) := BitVec.msb_eq_decide t

theorem F64.exponent_eq (t : Binary64) : F64.exponent t = t.toNat / 2 ^ 52 % 2 ^ 11 := by
  rw [F64.exponent, BitVec.extractLsb'_toNat, Nat.shiftRight_eq_div_pow]

theorem F64.fraction_eq (t : Binary64) : F64.fraction t = t.toNat % 2 ^ 52 := by
  rw [F64.fraction, BitVec.extractLsb'_toNat, Nat.shiftRight_zero]

/-- Only the two zeros have magnitude 0. -/
theorem F64.units_eq_zero_iff (t : Binary64) : F64.units t = 0 ↔ F64.exponent t = 0 ∧ F64.fraction t = 0 := by
  unfold F64.units
  split_ifs with h <;> simp [h]

theorem F64.legalTonic_iff (t : Binary64) :
    F64.legalTonic t = true ↔ F64.exponent t ≠ 2047 ∧ F64.sign t = false ∧ F64.units t ≠ 0 := by
  simp [F64.legalTonic, F64.isFinite, F64.isPositive]

/-- As numbers, the positive finite encodings lie between +0 and +infinity. -/
theorem F64.legalTonic_iff_toNat (t : Binary64) :
    F64.legalTonic t = true ↔ 0 < t.toNat ∧ t.toNat < 0x7FF0000000000000 := by
  rw [F64.legalTonic_iff, ne_eq (F64.units t), F64.units_eq_zero_iff, F64.exponent_eq, F64.fraction_eq, F64.sign_eq,
    decide_eq_false_iff_not]
  have hlt := t.isLt
  omega

/-! ### What each command can change (45_engine_commands.md R77) -/

theorem exec_keeps_counters (hi : i ≠ .init) (hp : i ≠ .pulse) (h : exec i s = .next t) : t.bc = s.bc ∧ t.tc = s.tc := by
  cases i with
  | pulse => exact absurd rfl hp
  | setSlider id v =>
    obtain ⟨_, hbc, htc, _⟩ := execSetSlider_frame h
    exact ⟨hbc, htc⟩
  | reset r =>
    obtain ⟨hbc, htc, _⟩ := execReset_frame h
    exact ⟨hbc, htc⟩
  | init => exact absurd rfl hi

theorem exec_keeps_clk (hi : i ≠ .init) (hp : i ≠ .pulse) (hr : ∀ r, i ≠ .reset r) (h : exec i s = .next t) :
    t.clk = s.clk := by
  cases i with
  | pulse => exact absurd rfl hp
  | setSlider id v => exact (execSetSlider_frame h).left
  | reset r => exact absurd rfl (hr r)
  | init => exact absurd rfl hi

theorem exec_keeps_sr (hi : i ≠ .init) (hp : i ≠ .pulse) (hr : i ≠ .reset true) (h : exec i s = .next t) :
    t.sr = s.sr := by
  cases i with
  | pulse => exact absurd rfl hp
  | setSlider id v =>
    obtain ⟨_, _, _, hsr, _⟩ := execSetSlider_frame h
    exact hsr
  | reset r =>
    obtain ⟨_, _, _, _, hsr⟩ := execReset_frame h
    exact hsr (by simpa using hr)
  | init => exact absurd rfl hi

theorem exec_keeps_selector {j : Slider} (hi : i ≠ .init) (hs : ∀ v, i ≠ .setSlider j v) (h : exec i s = .next t) :
    t.sel.get j = s.sel.get j := by
  cases i with
  | pulse => rw [(execPulse_keeps_sel_fault h).left]
  | setSlider id v =>
    obtain ⟨_, _, _, _, hsel⟩ := execSetSlider_frame h
    exact hsel j fun hj => hs v (hj ▸ rfl)
  | reset r =>
    obtain ⟨_, _, hsel, _⟩ := execReset_frame h
    rw [hsel]
  | init => exact absurd rfl hi

/-! ### What the host sees of a state (60_exceptions.md R95) -/

/-- States with the same debug view agree on `FAULT`, on whether the engine has started and, if it has, on every element. -/
theorem sameElements_of_debugView_eq (h : s.debugView = t.debugView) :
    s.fault = t.fault ∧ s.started = t.started ∧ (s.started = true → s.SameElements t) := by
  simp only [State.debugView, DebugView.mk.injEq] at h
  obtain ⟨hfault, helements⟩ := h
  cases hs : s.started <;> cases ht : t.started <;> simp [hs, ht] at helements
  · exact ⟨hfault, rfl, nofun⟩
  · obtain ⟨hclk, hbc, htc, hsr, hsel, htonic, hbpm⟩ := helements
    exact ⟨hfault, rfl, fun _ => ⟨hclk, hbc, htc, hsr, fun i => by rw [hsel], htonic, hbpm, hfault⟩⟩

/-- The same state with `old` answered before and another number of failed INITs: what no command but INIT reads. -/
def State.withHistory (old : List Response) (failures : Nat) (s : State) : State :=
  { s with responses := s.responses ++ old, initFailures := failures }

/-- Two started engines that look the same to the host, with the same ports and requests, differ in their histories only. -/
theorem exists_common_withHistory (hv : s.debugView = t.debugView) (hstarted : s.started = true) (hports : s.ports = t.ports)
    (hpending : s.pending = t.pending) :
    ∃ (u : State) (old₁ : List Response) (n₁ : Nat) (old₂ : List Response) (n₂ : Nat),
      s = u.withHistory old₁ n₁ ∧ t = u.withHistory old₂ n₂ := by
  obtain ⟨_, hstarted', helements⟩ := sameElements_of_debugView_eq hv
  obtain ⟨hclk, hbc, htc, hsr, hsel, htonic, hbpm, hfault⟩ := helements hstarted
  refine ⟨{ s with responses := [] }, s.responses, s.initFailures, t.responses, t.initFailures, rfl, ?_⟩
  rw [State.withHistory, hclk, hbc, htc, hsr, PerSlider.ext_get hsel, htonic, hbpm, hfault, hstarted', hports, hpending]
  rfl

/-- A command other than INIT does not read the responses given before, nor how many INITs have failed. -/
theorem exec_withHistory (old : List Response) (n : Nat) (hi : i ≠ .init) (h : exec i s = .next t) :
    exec i (s.withHistory old n) = .next (t.withHistory old n) := by
  cases i with
  | pulse =>
    refine unlessFaulted_next_map (f := State.withHistory old n) rfl rfl (fun hbody => ?_) h
    have hsnap : snapshot (s.withHistory old n) = snapshot s := rfl
    rw [hsnap]
    cases hs : snapshot s with
    | none => simp [hs] at hbody
    | some snap =>
      rw [hs] at hbody
      cases hbody
      rfl
  | setSlider id v =>
    refine unlessFaulted_next_map (f := State.withHistory old n) rfl rfl (fun hbody => ?_) h
    cases hc : selectorCheck specParams id v <;> rw [hc] at hbody <;> cases hbody <;> rfl
  | reset r =>
    refine unlessFaulted_next_map (f := State.withHistory old n) rfl rfl (fun hbody => ?_) h
    cases hbody
    cases r <;> rfl
  | init => exact absurd rfl hi

/-- So no word reads them: none is INIT's, and an illegal word raises its error whatever they are. -/
theorem issueWord_withHistory {w : CommandWord} (old : List Response) (n : Nat) (h : issueWord exec w s = .next t) :
    issueWord exec w (s.withHistory old n) = .next (t.withHistory old n) := by
  refine unlessFaulted_next_map (f := State.withHistory old n) rfl rfl (fun hbody => ?_) h
  cases hd : decode w with
  | command i =>
    rw [hd] at hbody
    exact exec_withHistory old n (fun hi => decode_ne_init w (hi ▸ hd)) hbody
  | illegal why =>
    rw [hd] at hbody
    cases hbody
    rfl

/-! ### Runs are determined by their INIT (45_engine_commands.md R78) -/

/-- `s'` after `s` and `t'` after `t` look the same to the host: the same debug view, requests and new responses. -/
structure AnswerAlike (s t s' t' : State) : Prop where
  view : s'.debugView = t'.debugView
  pending : s'.pending = t'.pending
  responses : ∃ rs, s'.responses = rs ++ s.responses ∧ t'.responses = rs ++ t.responses

theorem AnswerAlike.trans {s₁ t₁ s₂ t₂ : State} (h₁ : AnswerAlike s t s₁ t₁)
    (h₂ : AnswerAlike s₁ t₁ s₂ t₂) : AnswerAlike s t s₂ t₂ := by
  obtain ⟨rs₁, hs₁, ht₁⟩ := h₁.responses
  obtain ⟨rs₂, hs₂, ht₂⟩ := h₂.responses
  exact ⟨h₂.view, h₂.pending, rs₂ ++ rs₁, by rw [hs₂, hs₁, List.append_assoc], by rw [ht₂, ht₁, List.append_assoc]⟩

/-- What the host sees of an INIT is fixed by the ports, whatever the two states were. -/
theorem execInit_alike (hports : s.ports = t.ports) (hpending : s.pending = t.pending) :
    ∃ s' t', exec .init s = .next s' ∧ exec .init t = .next t' ∧ AnswerAlike s t s' t' := by
  cases hcfg : configError specParams s.ports with
  | some e =>
    exact ⟨_, _, execInit_of_configError hcfg, execInit_of_configError (hports ▸ hcfg), rfl, hpending,
      [⟨e.code, 0, 0⟩], rfl, rfl⟩
  | none =>
    refine ⟨_, _, execInit_of_no_configError hcfg, execInit_of_no_configError (hports ▸ hcfg), ?_, hpending,
      [⟨statusOk, 0, 0⟩], rfl, rfl⟩
    rw [hports]
    rfl

/-- From a legal state a word always has its next state. -/
theorem exists_issueWord_of_legal (w : CommandWord) (h : s.Legal specParams) : ∃ t, issueWord exec w s = .next t := by
  rcases issueWord_cases exec w s with ⟨_, e⟩ | ⟨_, i, _, e⟩ | ⟨_, _, _, e⟩
  · exact ⟨_, e⟩
  · exact e ▸ exists_exec_of_legal i h
  · exact ⟨_, e⟩

/-- A word does the same to two engines that look the same: both are refused, or the two differ in their histories only. -/
theorem issueWord_alike (w : CommandWord) (hlegal : s.Legal specParams) (hv : s.debugView = t.debugView)
    (hports : s.ports = t.ports) (hpending : s.pending = t.pending) :
    ∃ s' t', issueWord exec w s = .next s' ∧ issueWord exec w t = .next t' ∧ AnswerAlike s t s' t' := by
  by_cases hf : s.fault = none
  · have hstarted := hlegal.started_of_unfaulted hf
    obtain ⟨u, old₁, n₁, old₂, n₂, rfl, rfl⟩ := exists_common_withHistory hv hstarted hports hpending
    have hu : u.Legal specParams := hlegal
    obtain ⟨u', hrun⟩ := exists_issueWord_of_legal w hu
    obtain ⟨_, a, ha, _⟩ := issue_answers (c := .word w) hrun
    refine ⟨_, _, issueWord_withHistory old₁ n₁ hrun, issueWord_withHistory old₂ n₂ hrun, rfl, rfl, [a], ?_, ?_⟩ <;>
      simp [State.withHistory, ha]
  · obtain ⟨hfault, _, _⟩ := sameElements_of_debugView_eq hv
    exact ⟨_, _, unlessFaulted_of_faulted _ hf, unlessFaulted_of_faulted _ (hfault ▸ hf), hv, hpending,
      [⟨statusFaulted, 0, 0⟩], rfl, rfl⟩

theorem issue_alike (c : HostCommand) (hlegal : s.Legal specParams) (hv : s.debugView = t.debugView)
    (hports : s.ports = t.ports) (hpending : s.pending = t.pending) :
    ∃ s' t', issue exec c s = .next s' ∧ issue exec c t = .next t' ∧ AnswerAlike s t s' t' := by
  cases c with
  | powerOn => exact execInit_alike hports hpending
  | word w => exact issueWord_alike w hlegal hv hports hpending

theorem step_alike (hlegal : s.Legal specParams) (hv : s.debugView = t.debugView) (hpending : s.pending = t.pending) :
    ∃ s' t', step s = .next s' ∧ step t = .next t' ∧ AnswerAlike s t s' t' := by
  cases hq : s.pending with
  | nil => exact ⟨s, t, step_of_no_pending hq, step_of_no_pending (hpending ▸ hq), hv, hpending, [], rfl, rfl⟩
  | cons r rest =>
    obtain ⟨s', t', hs, ht, halike⟩ :=
      issue_alike (t := accept r rest t) r.command (legal_accept r rest hlegal) hv rfl rfl
    exact ⟨s', t', (step_of_pending hq).trans hs, (step_of_pending (hpending ▸ hq)).trans ht, halike.view, halike.pending,
      halike.responses⟩

/-- Two engines that look the same, with the same requests pending, run alike; that the first is legal is enough, since what
`State.Legal` reads the host sees. -/
theorem run_alike (n : Nat) (hlegal : s.Legal specParams) (hv : s.debugView = t.debugView)
    (hpending : s.pending = t.pending) :
    ∃ s' t', run n s = .next s' ∧ run n t = .next t' ∧ AnswerAlike s t s' t' := by
  induction n generalizing s t with
  | zero => exact ⟨s, t, rfl, rfl, hv, hpending, [], rfl, rfl⟩
  | succ n ih =>
    obtain ⟨s₁, t₁, hs, ht, halike⟩ := step_alike hlegal hv hpending
    obtain ⟨s', t', hs', ht', halike'⟩ := ih (stepKeepsStateLegal s s₁ hlegal hs) halike.view halike.pending
    exact ⟨s', t', (run_succ_of_step hs).trans hs', (run_succ_of_step ht).trans ht', halike.trans halike'⟩

end Sys2Proof.Machine

open Sys2Proof Sys2Proof.Machine

/-- Settles O17: PULSE advances with the snapshot, which is the eight slider outputs; the counters and the register are
different fields. -/
theorem pulseResult : Obligations.PulseResult := by
  unfold Obligations.PulseResult
  refine ⟨fun p s hf hsel => ?_, fun _ _ => ⟨rfl, rfl, rfl⟩⟩
  obtain ⟨out, hout⟩ := exists_snapshot s hsel
  have hpulse : pulseWith p s = .next (pulseSteps p out s) := pulseWith_of_snapshot hf hout
  refine ⟨out, (snapshot_eq_some_iff s out).mp hout, hpulse, ?_⟩
  rintro rfl
  exact hpulse

/-- Settles O19: the snapshot is all 0, so the index is 0, its half-tone 0, and the parity 0. -/
theorem allSlidersOffPlaysTheTonic : Obligations.AllSlidersOffPlaysTheTonic := by
  unfold Obligations.AllSlidersOffPlaysTheTonic
  intro s hf hoff htonic
  refine ⟨_, pulseWith_of_snapshot hf (snapshot_of_all_off hoff), ?_, ?_, rfl⟩
  · have hfreq : toFrequency .exact s.tonic 0 = s.tonic := freqF64_zero htonic
    have hindex : encodeIndex false false false false = 0 := by decide
    rw [pulseSteps_responses, hindex]
    exact congrArg (fun f => (⟨statusOk, 0, f⟩ : Response) :: s.responses) hfreq
  · have hparity : parity false false false false = false := by decide
    rw [pulseSteps_sr, hparity, toNat_srPush]
    simp [Nat.shiftLeft_eq, Nat.mul_comm]

/-- Settles O42, clause by clause: stored, raised, refused. -/
theorem setSliderResult : Obligations.SetSliderResult := by
  unfold Obligations.SetSliderResult
  intro s id v
  refine ⟨fun hf hv => ⟨s.sel.set id v, execSetSlider_of_le hf hv, PerSlider.get_set_same _ _ _, fun j hj => ?_, ?_⟩,
    execSetSlider_of_lt, exec_of_faulted (by simp)⟩
  · rw [PerSlider.get_set, if_neg hj]
  · rintro rfl
    exact PerSlider.set_get s.sel id

/-- Settles O44: a legal configuration has no error and is loaded; any other has its first failing check as its error, which
the failed INIT raises. -/
theorem initResult : Obligations.InitResult := by
  unfold Obligations.InitResult
  intro s
  have hiff := configError_eq_none specParams s.ports
  refine ⟨fun hsel hbpm htonic => execInit_of_no_configError (hiff.mpr ⟨hsel, hbpm, htonic⟩), fun hillegal => ?_⟩
  obtain ⟨e, he⟩ := Option.ne_none_iff_exists'.mp (mt hiff.mp hillegal)
  exact ⟨_, e, execInit_of_configError he, rfl, rfl, configError_eq_some he⟩

/-- Settles O45: sign, exponent and fraction are read off the encoding as a number. -/
theorem legalTonics : Obligations.LegalTonics := by
  unfold Obligations.LegalTonics
  exact F64.legalTonic_iff_toNat

/-- Settles O46: a failed INIT loses the elements; a faulted engine refuses any word and keeps its view; and an INIT answers
legal states only, which are started when they are not faulted. -/
theorem failedInitPreventsStart : Obligations.FailedInitPreventsStart := by
  unfold Obligations.FailedInitPreventsStart
  refine ⟨fun s t e h hfault => ?_, fun s e w q rest hview hq => ?_, fun s t _ h hfault => ?_⟩
  · rcases initWith_next h with ⟨e', _, rfl⟩ | ⟨_, rfl⟩
    · cases hfault
      exact ⟨rfl, rfl⟩
    · cases hfault
  · have hfault : s.fault = some e := congrArg DebugView.fault hview
    have hrefuse : step s = .next (refuse (accept ⟨.word w, q⟩ rest s)) :=
      (step_of_pending hq).trans (unlessFaulted_of_faulted _ (by simp [hfault]))
    exact ⟨_, hrefuse, hview, rfl⟩
  · exact (execInit_legal h).started_of_unfaulted hfault

/-- Settles O47: what changed was written by a command that writes it, and a response with a frequency conforms to R45. -/
theorem commandFootprints : Obligations.CommandFootprints := by
  unfold Obligations.CommandFootprints
  intro i s t h hi
  obtain ⟨htonic, hbpm, _⟩ := exec_keeps_tonic_bpm_started hi h
  refine ⟨fun hne => ?_, fun hne => ?_, fun hne => ?_, fun j hne => ?_, htonic, hbpm, fun a ha _ hfreq => ?_⟩ <;>
    by_contra hother
  · obtain ⟨hbc, htc⟩ := exec_keeps_counters hi hother h
    exact hne.elim (absurd hbc) (absurd htc)
  · obtain ⟨hp, hr⟩ := not_or.mp hother
    exact hne (exec_keeps_clk hi hp (not_exists.mp hr) h)
  · obtain ⟨hp, hr⟩ := not_or.mp hother
    exact hne (exec_keeps_sr hi hp hr h)
  · exact hne (exec_keeps_selector hi (not_exists.mp hother) h)
  · obtain ⟨a', ha', _, hzero⟩ := exec_answers h
    obtain rfl : a = a' := (List.cons.inj (ha.symm.trans ha')).left
    exact hfreq (hzero (.inr hother)).right

/-- Settles O56: the INIT leaves two legal engines that look the same, and those run alike. -/
theorem runsAreDeterminedByInit : Obligations.RunsAreDeterminedByInit := by
  unfold Obligations.RunsAreDeterminedByInit
  intro n s₁ s₂ q commands hq₁ hq₂
  obtain ⟨u₁, u₂, hinit₁, hinit₂, hinit⟩ :=
    execInit_alike (s := accept ⟨.powerOn, q⟩ commands s₁) (t := accept ⟨.powerOn, q⟩ commands s₂) rfl rfl
  obtain ⟨t₁, t₂, hrun₁, hrun₂, hrun⟩ := run_alike n (execInit_legal hinit₁) hinit.view hinit.pending
  obtain ⟨rs, hrs₁, hrs₂⟩ := (hinit.trans hrun).responses
  obtain ⟨_, hstarted, helements⟩ := sameElements_of_debugView_eq hrun.view
  exact ⟨t₁, t₂, rs, (run_succ_of_step ((step_of_pending hq₁).trans hinit₁)).trans hrun₁,
    (run_succ_of_step ((step_of_pending hq₂).trans hinit₂)).trans hrun₂, hstarted, hrun.view, helements, hrs₁, hrs₂⟩

/-- Settles O10: a step takes the next request, and there is none. -/
theorem noCommandNoChange : Obligations.NoCommandNoChange := by
  unfold Obligations.NoCommandNoChange
  exact fun _ => step_of_no_pending

/-- Settles O43: the one next state of an unfaulted RESET, its case of Clock 0, and the refusal. -/
theorem resetResult : Obligations.ResetResult := by
  unfold Obligations.ResetResult
  refine fun s r => ⟨execReset_of_unfaulted, fun hf hclk hr => ?_, exec_of_faulted (by simp)⟩
  rw [execReset_of_unfaulted hf, hr, ← hclk]
  rfl

end

section
/-! PROOFS. Exceptions (60_exceptions.md): what a faulted engine refuses, which of several errors is reported, that a PULSE
raises none, and the debug view. -/

namespace Sys2Proof.Machine

variable {p : Params} {s t : State} {e : ErrorInfo} {w : CommandWord} {q : Ports} {rest : List Request}

/-! ### Words on a faulted engine (60_exceptions.md R87) -/

/-- A word is refused before it is decoded. -/
theorem step_word_of_faulted (hf : s.fault ≠ none) (hq : s.pending = ⟨.word w, q⟩ :: rest) :
    step s = .next (refuse (accept ⟨.word w, q⟩ rest s)) :=
  (step_of_pending hq).trans (unlessFaulted_of_faulted _ hf)

theorem step_word_of_decode {i : Instr} (hd : decode w = .command i) (hq : s.pending = ⟨.word w, q⟩ :: rest) :
    step s = exec i (accept ⟨.word w, q⟩ rest s) :=
  (step_of_pending hq).trans (issue_word_of_decode hd)

/-- Without a power-on as the next request, a step of a faulted engine keeps its error. -/
theorem step_keeps_fault (hf : s.fault ≠ none) (hnext : ∀ q rest, s.pending ≠ ⟨.powerOn, q⟩ :: rest)
    (h : step s = .next t) : t.fault = s.fault := by
  match hq : s.pending with
  | [] =>
    cases (step_of_no_pending hq).symm.trans h
    rfl
  | ⟨.word w, q⟩ :: rest =>
    cases (step_word_of_faulted hf hq).symm.trans h
    rfl
  | ⟨.powerOn, q⟩ :: rest => exact absurd hq (hnext q rest)

/-! ### The error of an INIT that several checks fail (60_exceptions.md R88) -/

theorem slider_eq_of_id_toNat_eq {i j : Slider} (h : i.id.toNat = j.id.toNat) : i = j := by
  rw [← Slider.ofId_id i, ← Slider.ofId_id j, BitVec.eq_of_toNat_eq h]

/-- Two failing sliders without a failing slider below either are one. -/
theorem configError_of_lowest_selector {cfg : Ports} {id : Slider} (hlt : p.maxSelector < (cfg.selIn.get id).toNat)
    (hbelow : ∀ j : Slider, j.id.toNat < id.id.toNat → (cfg.selIn.get j).toNat ≤ p.maxSelector) :
    configError p cfg = some (.cfgSelector id (cfg.selIn.get id)) := by
  have hillegal : configError p cfg ≠ none := fun hnone =>
    Nat.not_le.mpr hlt (((configError_eq_none p cfg).mp hnone).left id)
  obtain ⟨e, he⟩ := Option.ne_none_iff_exists'.mp hillegal
  rcases configError_eq_some he with ⟨i, hi, hbelow', rfl⟩ | ⟨hle, _⟩ | ⟨hle, _⟩
  · obtain rfl : i = id := by
      rcases Nat.lt_trichotomy i.id.toNat id.id.toNat with hlow | heq | hhigh
      · exact absurd (hbelow i hlow) (Nat.not_le.mpr hi)
      · exact slider_eq_of_id_toNat_eq heq
      · exact absurd (hbelow' id hhigh) (Nat.not_le.mpr hlt)
    exact he
  · exact absurd (hle id) (Nat.not_le.mpr hlt)
  · exact absurd (hle id) (Nat.not_le.mpr hlt)

theorem configError_of_bpm {cfg : Ports} (hsel : ∀ j : Slider, (cfg.selIn.get j).toNat ≤ p.maxSelector)
    (hbpm : cfg.bpmIn.toInt ≤ 0) : configError p cfg = some (.cfgBpm cfg.bpmIn) := by
  simp [configError, (selectorErrors_eq_none p cfg.selIn).mpr hsel, hbpm]

theorem configError_of_tonic {cfg : Ports} (hsel : ∀ j : Slider, (cfg.selIn.get j).toNat ≤ p.maxSelector)
    (hbpm : 0 < cfg.bpmIn.toInt) (htonic : F64.legalTonic cfg.tonicIn = false) :
    configError p cfg = some (.cfgTonic cfg.tonicIn) := by
  simp [configError, (selectorErrors_eq_none p cfg.selIn).mpr hsel, Int.not_le.mpr hbpm, htonic]

/-- INIT records the error of its configuration and answers with the error's code. -/
theorem execInit_reports (hcfg : configError specParams s.ports = some e) (h : exec .init s = .next t) :
    t.fault = some e ∧ t.responses = ⟨e.code, 0, 0⟩ :: s.responses := by
  cases (execInit_of_configError hcfg).symm.trans h
  exact ⟨rfl, rfl⟩

/-! ### The debug view (60_exceptions.md R95) -/

theorem debugView_of_started (h : s.started = true) :
    s.debugView = ⟨s.fault, some ⟨s.clk, s.bc, s.tc, s.sr, s.sel, s.tonic, s.bpm⟩⟩ := by
  simp [State.debugView, h]

theorem debugView_of_not_started (h : s.started = false) : s.debugView = ⟨s.fault, none⟩ := by
  simp [State.debugView, h]

/-- The elements are all that the view of a started engine shows. -/
theorem debugView_eq_of_sameElements (hs : s.started = true) (ht : t.started = true) (h : s.SameElements t) :
    s.debugView = t.debugView := by
  obtain ⟨hclk, hbc, htc, hsr, hsel, htonic, hbpm, hfault⟩ := h
  rw [debugView_of_started hs, debugView_of_started ht, hclk, hbc, htc, hsr, PerSlider.ext_get hsel, htonic, hbpm, hfault]

end Sys2Proof.Machine

open Sys2Proof Sys2Proof.Machine

/-- Settles O12: a faulted engine refuses a word before decoding it and each command but INIT, so only a power-on can change
its error. -/
theorem faultedEngineRefuses : Obligations.FaultedEngineRefuses := by
  unfold Obligations.FaultedEngineRefuses
  refine ⟨fun s e w q rest hf hq => step_word_of_faulted (by simp [hf]) hq,
    fun s e i hf hi => exec_of_faulted hi (by simp [hf]), fun s t e hf h hchanged => ?_⟩
  by_contra hno
  have hnext : ∀ q rest, s.pending ≠ ⟨.powerOn, q⟩ :: rest := fun q rest hq => hno ⟨q, rest, hq⟩
  exact hchanged ((step_keeps_fault (by simp [hf]) hnext h).trans hf)

/-- Settles O14: a word is refused, or else found illegal, or else run; and INIT reports the first check that fails. -/
theorem errorPriority : Obligations.ErrorPriority := by
  unfold Obligations.ErrorPriority
  refine ⟨fun s t w q rest hq h => ⟨fun hf => ?_, fun hf ⟨why, hd⟩ => ?_, fun hf id v hd hv => ?_⟩, fun s t h =>
    ⟨fun id hlt hbelow => execInit_reports (configError_of_lowest_selector hlt hbelow) h,
      fun hsel hbpm => execInit_reports (configError_of_bpm hsel hbpm) h,
      fun hsel hbpm htonic => execInit_reports (configError_of_tonic hsel hbpm htonic) h⟩⟩
  · cases (step_word_of_faulted hf hq).symm.trans h
    exact ⟨rfl, rfl⟩
  · cases (illegalWordRaises s w q rest why hq hf hd).symm.trans h
    exact ⟨rfl, rfl⟩
  · cases ((step_word_of_decode hd hq).trans (execSetSlider_of_lt hf hv)).symm.trans h
    exact ⟨rfl, rfl⟩

/-- Settles O18: with legal selectors there is a snapshot, and advancing with it leaves `FAULT` and answers OK. -/
theorem pulseRaisesNothing : Obligations.PulseRaisesNothing := by
  unfold Obligations.PulseRaisesNothing
  intro s hf hsel
  obtain ⟨snap, _, hrun⟩ := execPulse_of_selectorsUpTo hf hsel
  exact ⟨_, _, hrun, hf, pulseSteps_responses s specParams snap, rfl⟩

/-- Settles O8: a step issues the next request, a word as the command it decodes to and the power-on as INIT. -/
theorem stepRunsTheNextCommand : Obligations.StepRunsTheNextCommand := by
  unfold Obligations.StepRunsTheNextCommand
  exact ⟨fun s w q rest i hq _ hd => step_word_of_decode hd hq,
    fun s q rest hq => (step_of_pending hq).trans issue_powerOn⟩

/-- Settles O57: the two forms of the view, and that the started one shows the elements and nothing else. -/
theorem debugViewShowsEveryElement : Obligations.DebugViewShowsEveryElement := by
  unfold Obligations.DebugViewShowsEveryElement
  refine ⟨fun s => debugView_of_started, fun s t hs ht => ⟨fun hview => ?_, debugView_eq_of_sameElements hs ht⟩,
    fun s => debugView_of_not_started⟩
  obtain ⟨_, _, hsame⟩ := sameElements_of_debugView_eq hview
  exact hsame hs

end

section
/-! PROOFS. Reset and hazards (70_reset_and_hazards.md): what a PULSE does from an all-zero ShiftRegister, the closed forms at a
cleared Clock and under a Clock of finite width, how long a parity bit takes to a slider, and which snapshot reads a
SET_SLIDER. -/

namespace Sys2Proof.Machine

variable {s t : State} {v : Selector}

/-! ### The all-zero ShiftRegister (70_reset_and_hazards.md R106) -/

theorem srPush_false_zero : srPush false 0 = 0 := by decide

theorem parity_false : parity false false false false = false := by decide

/-- From an all-zero register, the constant 0 and every position of the register read 0. -/
theorem sliderOutput_of_sr_zero (hsr : s.sr = 0) (hle : v.toNat ≤ 39) (hv : v.toNat = 0 ∨ 9 ≤ v.toNat) :
    sliderOutput s v = some false := by
  rcases hv with h0 | h9
  · exact sliderOutput_off h0
  · obtain ⟨k, hk⟩ := Nat.exists_eq_add_of_le h9
    rw [sliderOutput_sr (by omega) hk, hsr]
    exact congrArg some BitVec.getLsbD_zero

/-! ### The closed forms at a Clock of 0 (70_reset_and_hazards.md R99) -/

theorem closedForms_iff_of_clk_zero (h : s.clk = 0) :
    s.BinaryFollowsClock ∧ s.TripleFollowsClock ↔ s.bc = 0 ∧ s.tc = 0 := by
  rw [binaryFollowsClock_iff, tripleFollowsClock_iff, h, tripleAt_zero]
  exact Iff.rfl

/-! ### A Clock of finite width (70_reset_and_hazards.md R105) -/

/-- With at least 5 bits the wrap is a multiple of 32, which the BinaryCounter does not see: it takes the new Clock for the
next one. -/
theorem toNat_bcNext_clockNext {w c : Nat} {bc : BitVec 5} (hw : 5 ≤ w) (hbc : bc.toNat = c % 32) :
    (bcNext (clockNext (some w) c) bc).toNat = clockNext (some w) c % 32 := by
  have h32 : 32 ∣ 2 ^ w := Nat.pow_dvd_pow 2 hw
  have h16 : 16 ∣ 2 ^ w := Nat.dvd_trans (by decide) h32
  calc (bcNext ((c + 1) % 2 ^ w) bc).toNat
      = (bcNext (c + 1) bc).toNat := by rw [← bcNext_mod h16]
    _ = (c + 1) % 32 := by rw [(toNat_eq_mod_32_iff c bc).mp hbc, bcNext_succ_ofNat, BitVec.toNat_ofNat]
    _ = (c + 1) % 2 ^ w % 32 := (Nat.mod_mod_of_dvd _ h32).symm

theorem clockNext_lt (w c : Nat) : clockNext (some w) c < 2 ^ w := Nat.mod_lt _ (Nat.two_pow_pos w)

theorem clockNext_wrap (w : Nat) : clockNext (some w) (2 ^ w - 1) = 0 := by
  rw [clockNext, Nat.sub_add_cancel Nat.one_le_two_pow, Nat.mod_self]

/-- A Clock of 0 is a multiple of 3 and of 6. -/
theorem tcNext_zero (tc : BitVec 2) : tcNext 0 tc = ~~~tc := by
  refine BitVec.eq_of_getLsbD_eq fun j hj => ?_
  rw [getLsbD_tcNext 0 tc hj, BitVec.getLsbD_not]
  simp [hj]

/-! ### From the front of the register to position `k` (70_reset_and_hazards.md R101) -/

/-- A PULSE that is not refused pushes one bit. -/
theorem execPulse_pushes (hf : s.fault = none) (h : exec .pulse s = .next t) : ∃ b, t.sr = srPush b s.sr := by
  obtain ⟨snap, rfl⟩ := pulseWith_next_of_unfaulted hf h
  exact ⟨_, pulseSteps_sr s specParams snap⟩

/-- After `k` advances the front bit is at position `k`, whatever they push. -/
theorem getLsbD_front_of_pushes {r : Nat → Stages} {k : Nat} (hk : k ≤ 30)
    (hpush : ∀ j < k, ∃ b, r (j + 1) = srPush b (r j)) : (r k).getLsbD k = (r 0).getLsbD 0 := by
  choose! b hb using hpush
  simpa using getLsbD_of_pushes (P := fun j => b (j - 1)) hb k hk

/-! ### What a slider reads (70_reset_and_hazards.md R100) -/

/-- SLIDER_OUTPUT reads the counters and the register only. -/
theorem sliderOutput_congr (hbc : t.bc = s.bc) (htc : t.tc = s.tc) (hsr : t.sr = s.sr) (v : Selector) :
    sliderOutput t v = sliderOutput s v := by
  rw [sliderOutput, sliderOutput, hbc, htc, hsr]

end Sys2Proof.Machine

open Sys2Proof Sys2Proof.Machine

/-- Settles O20: every theme slider outputs 0, so the PULSE pushes a 0 into the zeros. -/
theorem allZeroShiftRegisterStays : Obligations.AllZeroShiftRegisterStays := by
  unfold Obligations.AllZeroShiftRegisterStays
  intro s hf hsel hsr htheme
  obtain ⟨snap, hs, hrun⟩ := execPulse_of_selectorsUpTo hf hsel
  have hread (i : Slider) (hi : i ∈ [Slider.w, .x, .y, .z]) : snap.get i = false :=
    snapshot_get_eq hs (sliderOutput_of_sr_zero hsr (hsel i) (htheme i hi))
  have hw : snap.w = false := hread .w (by decide)
  have hx : snap.x = false := hread .x (by decide)
  have hy : snap.y = false := hread .y (by decide)
  have hz : snap.z = false := hread .z (by decide)
  refine ⟨_, hrun, ?_, rfl⟩
  rw [pulseSteps_sr, hw, hx, hy, hz, parity_false, hsr, srPush_false_zero]

/-- Settles O27: RESET's next state has the old counters at a Clock of 0. -/
theorem resetKeepsTheCounters : Obligations.ResetKeepsTheCounters := by
  unfold Obligations.ResetKeepsTheCounters
  exact fun s r hf => ⟨_, execReset_of_unfaulted hf, rfl, rfl, rfl, closedForms_iff_of_clk_zero rfl⟩

/-- Settles O28: the wrap is a multiple of 32, so the BinaryCounter follows the Clock over it; the TripleCounter advances with
a Clock of 0. -/
theorem finiteClockWrap : Obligations.FiniteClockWrap := by
  unfold Obligations.FiniteClockWrap
  intro p w s hp hw hf hsel _ hbc
  obtain ⟨snap, hs⟩ := exists_snapshot s hsel
  refine ⟨_, pulseWith_of_snapshot hf hs, ?_⟩
  rw [pulseSteps_clk, pulseSteps_bc, pulseSteps_tc, hp]
  refine ⟨clockNext_lt w s.clk, toNat_bcNext_clockNext hw hbc, fun hmax => ?_⟩
  rw [hmax, clockNext_wrap]
  exact ⟨rfl, tcNext_zero s.tc⟩

/-- Settles O31: PULSE `n` puts its parity at the front, and the `k` PULSEs after it move that bit to position `k`. -/
theorem feedbackLatency : Obligations.FeedbackLatency := by
  unfold Obligations.FeedbackLatency
  intro m k f v snap hk hv hpulses hs
  have hfront : (f (m + 1)).sr.getLsbD 0 = parity snap.w snap.x snap.y snap.z := by
    obtain ⟨hf, t, hrun, hkeep⟩ := hpulses m (Nat.le_add_right m k)
    rw [hkeep, execPulse_sr hf hs hrun, getLsbD_srPush_zero]
  have hpush : ∀ j < k, ∃ b, (f (m + 1 + (j + 1))).sr = srPush b (f (m + 1 + j)).sr := fun j hj => by
    obtain ⟨hf, t, hrun, hkeep⟩ := hpulses (m + 1 + j) (by omega)
    exact hkeep ▸ execPulse_pushes hf hrun
  rw [sliderOutput_sr hk hv, getLsbD_front_of_pushes (r := fun j => (f (m + 1 + j)).sr) hk hpush]
  exact congrArg some hfront

/-- Settles O35: SET_SLIDER writes the selector registers only, and there the one slider's. -/
theorem sliderWriteSeenByNextPulse : Obligations.SliderWriteSeenByNextPulse := by
  unfold Obligations.SliderWriteSeenByNextPulse
  refine fun s id v hf hv => ⟨_, execSetSlider_of_le hf hv, fun j => ?_⟩
  rw [respondStatus_sel, PerSlider.get_set, ← apply_ite (sliderOutput s)]
  exact sliderOutput_congr rfl rfl rfl _

end

section
/-! PROOFS. The sample words of the decoding table (95_test_vectors.md V8): why a word is illegal, one lemma per reason, and the
table. -/

namespace Sys2Proof

variable {w : CommandWord}

/-! ### Why a word is illegal (30_encoding.md R46, R47) -/

theorem decode_of_reservedOpcode (hop : opcodeField w ∉ [1, 2, 3]) : decode w = .illegal .reservedOpcode := by
  simp only [List.mem_cons, List.not_mem_nil, or_false, not_or] at hop
  obtain ⟨hpulse, hset, hreset⟩ := hop
  rw [decode, if_neg hpulse, if_neg hset, if_neg hreset]

theorem decode_formatP_of_ne_zero (hop : opcodeField w = 1) (hzero : w.extractLsb' 0 12 ≠ 0) :
    decode w = .illegal .mustBeZero := by
  rw [decode, if_pos hop, decodePulse, if_neg hzero]

theorem decode_formatS_of_ne_zero (hop : opcodeField w = 2) (hzero : w.extractLsb' 6 3 ≠ 0) :
    decode w = .illegal .mustBeZero := by
  rw [decode, if_neg (by rw [hop]; decide), if_pos hop, decodeSetSlider, if_neg hzero]

theorem decode_formatR_of_ne_zero (hop : opcodeField w = 3) (hzero : w.extractLsb' 1 11 ≠ 0) :
    decode w = .illegal .mustBeZero := by
  rw [decode, if_neg (by rw [hop]; decide), if_neg (by rw [hop]; decide), if_pos hop, decodeReset, if_neg hzero]

end Sys2Proof

open Sys2Proof

/-- Settles O7: a legal word is the encoding of its row's command; an illegal one has a reserved opcode, or a must-be-zero field
of its format that is not 0. -/
theorem decodeSampleWords : Obligations.DecodeSampleWords := by
  unfold Obligations.DecodeSampleWords
  have legal {w : CommandWord} {i : Instr} (h : encode i = some w) : decode w = .command i :=
    (decode_eq_command_iff_encode w i).mpr h
  exact
    ⟨legal rfl, decode_formatP_of_ne_zero (by decide) (by decide), decode_formatP_of_ne_zero (by decide) (by decide),
      legal rfl, legal rfl,
      legal rfl, decode_formatS_of_ne_zero (by decide) (by decide),
      legal rfl, legal rfl,
      legal rfl, legal rfl,
      legal rfl, legal rfl,
      decode_formatR_of_ne_zero (by decide) (by decide), decode_of_reservedOpcode (by decide),
      decode_of_reservedOpcode (by decide), decode_of_reservedOpcode (by decide)⟩

end
